-- ==== Sys2Proof/Word.lean ====
section
/-! DEFINITION. The machine word of spec/00_scope.md rule R8. -/

namespace Sys2Proof

/-- A word: a 32-bit two's-complement signed integer (R8, decision D3). Every register, cell, opcode, operand and
address is one. `+` and `-` of `BitVec` wrap modulo 2^32 (decision D4); comparisons of the spec are signed and are
written on `toInt`. -/
abbrev Word := BitVec 32

end Sys2Proof
end

