-- ==== Sys2Proof/Config.lean ====
section
/-! DEFINITION. What an implementation fixes: the launch parameters of spec/00_scope.md rule R6, the opcode map
parameter of spec/30_encoding.md rule R65, the message codes of decision D15, and the free value of Get's draw. -/

namespace Sys2Proof

/-- `OPCODE_MAP` (R6, R65, decision D1): the opcode number of each of the 31 instruction classes. The spec's default
numbering is `OpcodeMap.standard` in Decode.lean; every rule is written against the class, not the number. -/
structure OpcodeMap where
  loadVal : Word
  loadAddr : Word
  loadIndAddr : Word
  loadIdxXAddr : Word
  loadIdxYAddr : Word
  loadSpX : Word
  storeAddr : Word
  get : Word
  putPort : Word
  addX : Word
  addY : Word
  subX : Word
  subY : Word
  copyToX : Word
  copyFromX : Word
  copyToY : Word
  copyFromY : Word
  copyToSp : Word
  copyFromSp : Word
  jumpAddr : Word
  jumpIfEqual : Word
  jumpIfNotEqual : Word
  callAddr : Word
  ret : Word
  incX : Word
  decX : Word
  push : Word
  pop : Word
  int : Word
  iRet : Word
  endRun : Word
  deriving DecidableEq, Repr

/-- The launch configuration (R6), fixed for a run. `W` is not a field: the spec takes 32 for every register and cell
(decision D3). -/
structure Config where
  /-- `TOTAL_SIZE`: the number of cells of the Address Space. -/
  totalSize : Word
  /-- `USER_LIMIT`: the first address of the system region. -/
  userLimit : Word
  /-- `INT_HANDLER`: the PC that Int loads. -/
  intHandler : Word
  /-- `SYS_STACK_TOP`: the SP that Int loads. -/
  sysStackTop : Word
  /-- `USER_STACK_TOP`: the reset value of SP; `USER_LIMIT` unless given (decision D6). -/
  userStackTop : Word := userLimit
  /-- `IR_SENTINEL`: the reset value of IR (decision D7). -/
  irSentinel : Word
  /-- `TIMER_THRESHOLD`: accepted and ignored (R112, decision D13). -/
  timerThreshold : Option Nat := none
  /-- `OPCODE_MAP`. -/
  opcodeMap : OpcodeMap
  deriving DecidableEq, Repr

/-- `MSG_CODE` (R51, decision D15, left OPEN by the spec): the discriminant values of a serialised request. No
instruction of the engine depends on them, since the engine sends typed messages (R47). -/
structure MsgCode where
  read : Word
  write : Word
  terminate : Word
  deriving DecidableEq, Repr

/-- FREE VALUE (R79, decision D18, notes/assumptions/3.md): the result of the `n`-th draw of the random source, less
one. It has no body, so nothing but `1 <= draw <= 100` can be proved of a draw. -/
opaque Config.freeDraw : Nat → Fin 100

end Sys2Proof
end

