-- ==== Sys2Proof/Syntax.lean ====
section
/-! DEFINITION. The instruction set's abstract syntax: one constructor of `Instr` for each row of
spec/opcode_table.json (spec/30_encoding.md rule R65). Operands are whole words (R60, R63). -/

namespace Sys2Proof

/-- The instruction classes (R65), without their operands. -/
inductive Opcode where
  | loadVal
  | loadAddr
  | loadIndAddr
  | loadIdxXAddr
  | loadIdxYAddr
  | loadSpX
  | storeAddr
  | get
  | putPort
  | addX
  | addY
  | subX
  | subY
  | copyToX
  | copyFromX
  | copyToY
  | copyFromY
  | copyToSp
  | copyFromSp
  | jumpAddr
  | jumpIfEqual
  | jumpIfNotEqual
  | callAddr
  | ret
  | incX
  | decX
  | push
  | pop
  | int
  | iRet
  | endRun
  deriving DecidableEq, Repr

/-- The four formats (R61): no operand, value, address, port. -/
inductive Format where
  | n | v | a | p
  deriving DecidableEq, Repr

/-- The instructions. A one-cell form has no argument; a two-cell form has its operand word. Every register is implied
by the opcode (R68). -/
inductive Instr where
  /-- `Load_Val` (R71). -/
  | loadVal (v : Word)
  /-- `Load_Addr` (R72). -/
  | loadAddr (a : Word)
  /-- `LoadInd_Addr` (R73). -/
  | loadIndAddr (a : Word)
  /-- `LoadIdxX_Addr` (R74). -/
  | loadIdxXAddr (a : Word)
  /-- `LoadIdxY_Addr` (R75). -/
  | loadIdxYAddr (a : Word)
  /-- `LoadSpX` (R76). -/
  | loadSpX
  /-- `Store_Addr` (R77). -/
  | storeAddr (a : Word)
  /-- `Get` (R80). -/
  | get
  /-- `Put_Port` (R81). -/
  | putPort (p : Word)
  /-- `AddX` (R83). -/
  | addX
  /-- `AddY` (R84). -/
  | addY
  /-- `SubX` (R85). -/
  | subX
  /-- `SubY` (R86). -/
  | subY
  /-- `CopyToX` (R89). -/
  | copyToX
  /-- `CopyFromX` (R90). -/
  | copyFromX
  /-- `CopyToY` (R91). -/
  | copyToY
  /-- `CopyFromY` (R92). -/
  | copyFromY
  /-- `CopyToSp` (R93). -/
  | copyToSp
  /-- `CopyFromSp` (R94). -/
  | copyFromSp
  /-- `Jump_Addr` (R96). -/
  | jumpAddr (a : Word)
  /-- `JumpIfEqual` (R97). -/
  | jumpIfEqual (a : Word)
  /-- `JumpIfNotEqual` (R98). -/
  | jumpIfNotEqual (a : Word)
  /-- `Call_Addr` (R99). -/
  | callAddr (a : Word)
  /-- `Ret` (R100). -/
  | ret
  /-- `IncX` (R87). -/
  | incX
  /-- `DecX` (R88). -/
  | decX
  /-- `Push` (R102). -/
  | push
  /-- `Pop` (R103). -/
  | pop
  /-- `Int` (R104). -/
  | int
  /-- `IRet` (R105). -/
  | iRet
  /-- `End` (R106). -/
  | endRun
  deriving DecidableEq, Repr

/-- Every instruction class, in the order of R65. -/
def Opcode.all : List Opcode :=
  [.loadVal, .loadAddr, .loadIndAddr, .loadIdxXAddr, .loadIdxYAddr, .loadSpX, .storeAddr, .get,
   .putPort, .addX, .addY, .subX, .subY, .copyToX, .copyFromX, .copyToY,
   .copyFromY, .copyToSp, .copyFromSp, .jumpAddr, .jumpIfEqual, .jumpIfNotEqual, .callAddr, .ret,
   .incX, .decX, .push, .pop, .int, .iRet, .endRun]

/-- The number the map gives a class. -/
def OpcodeMap.numberOf (m : OpcodeMap) : Opcode → Word
  | .loadVal => m.loadVal
  | .loadAddr => m.loadAddr
  | .loadIndAddr => m.loadIndAddr
  | .loadIdxXAddr => m.loadIdxXAddr
  | .loadIdxYAddr => m.loadIdxYAddr
  | .loadSpX => m.loadSpX
  | .storeAddr => m.storeAddr
  | .get => m.get
  | .putPort => m.putPort
  | .addX => m.addX
  | .addY => m.addY
  | .subX => m.subX
  | .subY => m.subY
  | .copyToX => m.copyToX
  | .copyFromX => m.copyFromX
  | .copyToY => m.copyToY
  | .copyFromY => m.copyFromY
  | .copyToSp => m.copyToSp
  | .copyFromSp => m.copyFromSp
  | .jumpAddr => m.jumpAddr
  | .jumpIfEqual => m.jumpIfEqual
  | .jumpIfNotEqual => m.jumpIfNotEqual
  | .callAddr => m.callAddr
  | .ret => m.ret
  | .incX => m.incX
  | .decX => m.decX
  | .push => m.push
  | .pop => m.pop
  | .int => m.int
  | .iRet => m.iRet
  | .endRun => m.endRun

/-- The class of an instruction. -/
def Instr.opcode : Instr → Opcode
  | .loadVal _ => .loadVal
  | .loadAddr _ => .loadAddr
  | .loadIndAddr _ => .loadIndAddr
  | .loadIdxXAddr _ => .loadIdxXAddr
  | .loadIdxYAddr _ => .loadIdxYAddr
  | .loadSpX => .loadSpX
  | .storeAddr _ => .storeAddr
  | .get => .get
  | .putPort _ => .putPort
  | .addX => .addX
  | .addY => .addY
  | .subX => .subX
  | .subY => .subY
  | .copyToX => .copyToX
  | .copyFromX => .copyFromX
  | .copyToY => .copyToY
  | .copyFromY => .copyFromY
  | .copyToSp => .copyToSp
  | .copyFromSp => .copyFromSp
  | .jumpAddr _ => .jumpAddr
  | .jumpIfEqual _ => .jumpIfEqual
  | .jumpIfNotEqual _ => .jumpIfNotEqual
  | .callAddr _ => .callAddr
  | .ret => .ret
  | .incX => .incX
  | .decX => .decX
  | .push => .push
  | .pop => .pop
  | .int => .int
  | .iRet => .iRet
  | .endRun => .endRun

/-- The operand cell of an instruction, if its form has one (R61). -/
def Instr.operand : Instr → Option Word
  | .loadVal v => some v
  | .loadAddr a => some a
  | .loadIndAddr a => some a
  | .loadIdxXAddr a => some a
  | .loadIdxYAddr a => some a
  | .loadSpX => none
  | .storeAddr a => some a
  | .get => none
  | .putPort p => some p
  | .addX => none
  | .addY => none
  | .subX => none
  | .subY => none
  | .copyToX => none
  | .copyFromX => none
  | .copyToY => none
  | .copyFromY => none
  | .copyToSp => none
  | .copyFromSp => none
  | .jumpAddr a => some a
  | .jumpIfEqual a => some a
  | .jumpIfNotEqual a => some a
  | .callAddr a => some a
  | .ret => none
  | .incX => none
  | .decX => none
  | .push => none
  | .pop => none
  | .int => none
  | .iRet => none
  | .endRun => none

end Sys2Proof
end

