-- ==== Sys2Proof/WellFormed.lean ====
section
/-! DEFINITION. The checks of what a launch and the instruction syntax must satisfy. -/

namespace Sys2Proof

/-- Well-formedness of an instruction. Every register is implied by the opcode and every word is an acceptable operand
(spec/30_encoding.md R63, R66; spec/44_control_transfer.md R95), so no term of `Instr` is ill-formed. -/
def Instr.wellFormed : Instr → Bool
  | .loadVal _ => true
  | .loadAddr _ => true
  | .loadIndAddr _ => true
  | .loadIdxXAddr _ => true
  | .loadIdxYAddr _ => true
  | .loadSpX => true
  | .storeAddr _ => true
  | .get => true
  | .putPort _ => true
  | .addX => true
  | .addY => true
  | .subX => true
  | .subY => true
  | .copyToX => true
  | .copyFromX => true
  | .copyToY => true
  | .copyFromY => true
  | .copyToSp => true
  | .copyFromSp => true
  | .jumpAddr _ => true
  | .jumpIfEqual _ => true
  | .jumpIfNotEqual _ => true
  | .callAddr _ => true
  | .ret => true
  | .incX => true
  | .decX => true
  | .push => true
  | .pop => true
  | .int => true
  | .iRet => true
  | .endRun => true

/-- Decision D1's constraint on a map: injective, and no class mapped to `IR_SENTINEL`. -/
abbrev OpcodeMap.Valid (m : OpcodeMap) (sentinel : Word) : Prop :=
  (Opcode.all.map m.numberOf).Nodup ∧ sentinel ∉ Opcode.all.map m.numberOf

/-- The constraints of R6 on the five numeric parameters (decision D5). -/
abbrev Config.RegionsValid (c : Config) : Prop :=
  0 < c.userLimit.toInt ∧ c.userLimit.toInt < c.totalSize.toInt ∧ c.totalSize.toInt ≤ 2147483647 ∧
  c.userLimit.toInt ≤ c.intHandler.toInt ∧ c.intHandler.toInt < c.totalSize.toInt ∧
  c.userLimit.toInt < c.sysStackTop.toInt ∧ c.sysStackTop.toInt ≤ c.totalSize.toInt

/-- A configuration a launch accepts (R6, decisions D1 and D5). -/
abbrev Config.Valid (c : Config) : Prop :=
  c.RegionsValid ∧ c.opcodeMap.Valid c.irSentinel

/-- The launch image (R46): finitely many (address, value) entries. -/
abbrev Image := List (Word × Word)

/-- The first entry of an image outside `[0, TOTAL_SIZE)`, if there is one (R46: it refuses the launch). -/
def Image.firstOutside (c : Config) (image : Image) : Option (Word × Word) :=
  image.find? fun e => !(decide (0 ≤ e.1.toInt) && decide (e.1.toInt < c.totalSize.toInt))

end Sys2Proof
end

