-- ==== Sys2Proof/Decode.lean ====
section
/-! DEFINITION. Decoding and encoding of instructions (spec/30_encoding.md): the default opcode map, the formats, the
decoder (total, refusing by name), the encoder, and the host's table-word reading. -/

namespace Sys2Proof

/-- The default `OPCODE_MAP` of R65 (PRESUMED: the spec marks the numbers as from general knowledge, decision D1;
notes/assumptions/1.md). -/
def OpcodeMap.standard : OpcodeMap where
  loadVal := 1
  loadAddr := 2
  loadIndAddr := 3
  loadIdxXAddr := 4
  loadIdxYAddr := 5
  loadSpX := 6
  storeAddr := 7
  get := 8
  putPort := 9
  addX := 10
  addY := 11
  subX := 12
  subY := 13
  copyToX := 14
  copyFromX := 15
  copyToY := 16
  copyFromY := 17
  copyToSp := 18
  copyFromSp := 19
  jumpAddr := 20
  jumpIfEqual := 21
  jumpIfNotEqual := 22
  callAddr := 23
  ret := 24
  incX := 25
  decX := 26
  push := 27
  pop := 28
  int := 29
  iRet := 30
  endRun := 50

/-- The format of each class (R61, R65). -/
def Opcode.format : Opcode → Format
  | .loadVal => .v
  | .loadAddr => .a
  | .loadIndAddr => .a
  | .loadIdxXAddr => .a
  | .loadIdxYAddr => .a
  | .loadSpX => .n
  | .storeAddr => .a
  | .get => .n
  | .putPort => .p
  | .addX => .n
  | .addY => .n
  | .subX => .n
  | .subY => .n
  | .copyToX => .n
  | .copyFromX => .n
  | .copyToY => .n
  | .copyFromY => .n
  | .copyToSp => .n
  | .copyFromSp => .n
  | .jumpAddr => .a
  | .jumpIfEqual => .a
  | .jumpIfNotEqual => .a
  | .callAddr => .a
  | .ret => .n
  | .incX => .n
  | .decX => .n
  | .push => .n
  | .pop => .n
  | .int => .n
  | .iRet => .n
  | .endRun => .n

/-- Whether a class takes an operand cell: formats V, A and P do (R61). -/
def Opcode.hasOperand (c : Opcode) : Bool := decide (c.format ≠ .n)

/-- The number of cells of a class's instructions (R64). -/
def Opcode.cells (c : Opcode) : Nat := if c.hasOperand then 2 else 1

/-- The class a word selects, if any (R65): the whole word is the opcode (R60). `none` is a malformed opcode (R66). -/
def OpcodeMap.classOf (m : OpcodeMap) (w : Word) : Option Opcode :=
  Opcode.all.find? fun c => m.numberOf c == w

/-- The instruction of a class with an operand word; a class of format N ignores the word. The operand is used whole,
with no extension or scaling (R63). -/
def Opcode.withOperand : Opcode → Word → Instr
  | .loadVal, v => .loadVal v
  | .loadAddr, a => .loadAddr a
  | .loadIndAddr, a => .loadIndAddr a
  | .loadIdxXAddr, a => .loadIdxXAddr a
  | .loadIdxYAddr, a => .loadIdxYAddr a
  | .loadSpX, _ => .loadSpX
  | .storeAddr, a => .storeAddr a
  | .get, _ => .get
  | .putPort, p => .putPort p
  | .addX, _ => .addX
  | .addY, _ => .addY
  | .subX, _ => .subX
  | .subY, _ => .subY
  | .copyToX, _ => .copyToX
  | .copyFromX, _ => .copyFromX
  | .copyToY, _ => .copyToY
  | .copyFromY, _ => .copyFromY
  | .copyToSp, _ => .copyToSp
  | .copyFromSp, _ => .copyFromSp
  | .jumpAddr, a => .jumpAddr a
  | .jumpIfEqual, a => .jumpIfEqual a
  | .jumpIfNotEqual, a => .jumpIfNotEqual a
  | .callAddr, a => .callAddr a
  | .ret, _ => .ret
  | .incX, _ => .incX
  | .decX, _ => .decX
  | .push, _ => .push
  | .pop, _ => .pop
  | .int, _ => .int
  | .iRet, _ => .iRet
  | .endRun, _ => .endRun

/-- Why the decoder refuses a sequence of cells. -/
inductive DecodeError where
  /-- There is no opcode cell. -/
  | noCell
  /-- The opcode cell selects no class (R66). -/
  | malformedOpcode (w : Word)
  /-- The class takes an operand and there is no second cell. -/
  | missingOperand (c : Opcode)
  deriving DecidableEq, Repr

/-- The decoder: the instruction that begins a sequence of cells, and the cells after it (R60, R61, R64). -/
def decode (m : OpcodeMap) : List Word → Except DecodeError (Instr × List Word)
  | [] => .error .noCell
  | w :: rest =>
    match m.classOf w with
    | none => .error (.malformedOpcode w)
    | some c =>
      if c.hasOperand then
        match rest with
        | [] => .error (.missingOperand c)
        | v :: rest' => .ok (c.withOperand v, rest')
      else .ok (c.withOperand 0, rest)

/-- The encoder: the cells of an instruction (R60, R61). -/
def encode (m : OpcodeMap) (i : Instr) : List Word :=
  m.numberOf i.opcode :: i.operand.toList

/-- The first two cells of an instruction whose bits are `w`, numbered as spec/opcode_table.json numbers them, every bit
from `nbits` up being 0. -/
def tableCells (nbits w : Nat) : List Word :=
  [BitVec.ofNat 32 (w % 2 ^ nbits), BitVec.ofNat 32 (w % 2 ^ nbits / 2 ^ 32)]

/-- What the decoder reads, under the default map, from an instruction whose bits are `w`. -/
def decodeTableWord (nbits w : Nat) : Option Instr :=
  match decode OpcodeMap.standard (tableCells nbits w) with
  | .ok (i, _) => some i
  | .error _ => none

end Sys2Proof
end

