-- ==== Sys2Proof/Machine/Defaults.lean ====
section
/-! DEFINITION. The default configuration of spec/00_scope.md rule R6. -/

namespace Sys2Proof

/-- The defaults of R6 (PRESUMED: the spec marks them as from general knowledge, decision D5, K2 to K5;
notes/assumptions/1.md). `USER_STACK_TOP` is `USER_LIMIT` (D6), `IR_SENTINEL` is -1 (D7). -/
def Config.standard : Config where
  totalSize := 2000
  userLimit := 1000
  intHandler := 1500
  sysStackTop := 2000
  irSentinel := -1
  opcodeMap := OpcodeMap.standard

end Sys2Proof
end

