-- ==== Sys2Proof/Machine/Memory.lean ====
section
/-! DEFINITION. The Address Space's contents (spec/20_memory.md R34 to R37, R46): a canonical list of the cells that
differ from 0. -/

namespace Sys2Proof.Machine

/-- The contents `M`: (address, word) pairs in strictly rising order of address, none holding `Memory.blank`. The unit is
the 32-bit cell, the smallest thing that can be addressed (R35; notes/assumptions/4.md). -/
abbrev Memory := List (Nat × Word)

/-- What a cell nothing has written reads as: "All cells initialized to 0 at construction" (R46). -/
def Memory.blank : Word := 0#32

/-- The word in a cell. -/
def Memory.read : Memory → Nat → Word
  | [], _ => Memory.blank
  | (b, w) :: rest, a => if a = b then w else Memory.read rest a

/-- Put a word before a memory at an address below all of its addresses, unless it is the blank word. -/
def Memory.prepend (a : Nat) (v : Word) (m : Memory) : Memory :=
  if v = Memory.blank then m else (a, v) :: m

/-- Replace one cell (R43: "A write changes exactly one cell"). -/
def Memory.write : Memory → Nat → Word → Memory
  | [], a, v => Memory.prepend a v []
  | (b, w) :: rest, a, v =>
    if a < b then Memory.prepend a v ((b, w) :: rest)
    else if a = b then Memory.prepend a v rest
    else (b, w) :: Memory.write rest a v

/-- The canonical form from address `lo` up. -/
def Memory.wfFrom : Nat → Memory → Bool
  | _, [] => true
  | lo, (a, v) :: rest => decide (lo ≤ a) && decide (v ≠ Memory.blank) && Memory.wfFrom (a + 1) rest

/-- The canonical form: addresses strictly rising, no entry blank. -/
def Memory.wf (m : Memory) : Bool := Memory.wfFrom 0 m

end Sys2Proof.Machine
end

