-- ==== Sys2Proof/Machine/State.lean ====
section
/-! DEFINITION. The machine's state (spec/10_state.md), the ways a step can stop, and the state after reset
(spec/70_reset_and_hazards.md R129). -/

namespace Sys2Proof.Machine

/-- The privilege mode (R24): two values, no encoding as bits. -/
inductive Mode where
  | user | kernel
  deriving DecidableEq, Repr

/-- The reason of a protocol error (R51). -/
inductive ProtocolReason where
  /-- A READ or WRITE of an address outside `[0, TOTAL_SIZE)`. -/
  | addressOutOfRange (a : Word)
  /-- A serialised request with a discriminant outside READ, WRITE, TERMINATE. -/
  | badDiscriminant (d : Word)
  deriving DecidableEq, Repr

/-- How a run ended (R28, R119). -/
inductive HaltStatus where
  | clean
  | privilegeViolation (a : Word)
  | protocolError (r : ProtocolReason)
  deriving DecidableEq, Repr

/-- The engine's run status (R28). -/
inductive RunStatus where
  | running
  | halted (h : HaltStatus)
  deriving DecidableEq, Repr

/-- The Memory Service's status (R29). -/
inductive ServiceStatus where
  | loading | serving | stopped
  | failed (r : ProtocolReason)
  deriving DecidableEq, Repr

/-- The requests of the engine-to-memory channel (R47). -/
inductive Request where
  | read (a : Word)
  | write (a v : Word)
  | terminate
  deriving DecidableEq, Repr

/-- The events of the observable trace (R30). -/
inductive Event where
  /-- From Put_Port (R81). -/
  | output (port value : Word)
  /-- From a malformed opcode (R107). -/
  | anomaly (pc opcode : Word)
  /-- The TERMINATE message (R50). -/
  | shutdown
  deriving DecidableEq, Repr

/-- The whole machine: the register file (R15), the engine's run status (R28), the Memory Service (R29), the event trace
(R30), and the launch configuration. -/
structure State where
  /-- The launch configuration (R6); no step changes it. -/
  cfg : Config
  pc : Word
  sp : Word
  ir : Word
  ac : Word
  x : Word
  y : Word
  mode : Mode
  run : RunStatus
  mem : Memory
  service : ServiceStatus
  /-- The events so far, oldest first (R30). -/
  trace : List Event
  /-- The protocol requests the engine has sent, oldest first (R30 allows recording them; notes/assumptions/6.md). -/
  sent : List Request
  /-- The model's own field: how many draws the random source has made (R79; notes/assumptions/3.md). -/
  draws : Nat
  deriving DecidableEq, Repr

/-- Why the model has no step from a state. -/
inductive Fault where
  /-- Raised by `step` in a halted state: "A halted engine takes no further step" (R28, R119). Safe: the hardware stops
  there too. -/
  | engineHalted (h : HaltStatus)
  /-- Raised by `step` where the engine runs and the Memory Service is not serving: its request would never be answered
  (R54; 93_implementation_defined.md U8, `stuck`). No run reaches such a state. Safe. -/
  | serviceNotServing (st : ServiceStatus)
  deriving DecidableEq, Repr

/-- What the model refuses. -/
inductive Refusal where
  /-- An instruction with no meaning yet; no arm of `exec` uses it. Safe. -/
  | notModelled (mnemonic : String)
  /-- Raised by `launch` for a configuration that breaks a constraint: "A model refuses a launch that breaks a
  constraint" (R6). Safe. -/
  | invalidConfiguration
  /-- Raised by `launch` for an image entry outside `[0, TOTAL_SIZE)`: "the model refuses the launch" (R46). Safe. -/
  | imageOutOfRange (a : Word)
  deriving DecidableEq, Repr

/-- The state after R128 (1), (2) and (5), before the image is written: every register at its reset value (R129), every
cell 0, the service `Loading` (R29). -/
def State.powerOn (c : Config) : State where
  cfg := c
  pc := 0
  sp := c.userStackTop
  ir := c.irSentinel
  ac := 0
  x := 0
  y := 0
  mode := .user
  run := .running
  mem := []
  service := .loading
  trace := []
  sent := []
  draws := 0

/-- The machine right after reset (R129), for the default configuration and an empty image: the registers of
`State.powerOn`, the service serving. -/
def State.reset : State := { State.powerOn Config.standard with service := .serving }

end Sys2Proof.Machine
end

