-- ==== Sys2Proof/Machine/Ops.lean ====
section
/-! DEFINITION. The named operations every meaning is written with: register writes, the event trace, the sequencing of
an instruction's statements, the Memory Service, the guarded access, the stack, trap entry and trap return. -/

namespace Sys2Proof.Machine

/-- What a meaning answers. -/
abbrev Result := Host.Outcome State Fault Refusal

/-! ### Register writes (spec/00_scope.md R9) -/

def State.setPc (s : State) (v : Word) : State := { s with pc := v }
def State.setSp (s : State) (v : Word) : State := { s with sp := v }
def State.setIr (s : State) (v : Word) : State := { s with ir := v }
def State.setAc (s : State) (v : Word) : State := { s with ac := v }
def State.setX (s : State) (v : Word) : State := { s with x := v }
def State.setY (s : State) (v : Word) : State := { s with y := v }
def State.setMode (s : State) (m : Mode) : State := { s with mode := m }

/-! ### The rest of the state -/

/-- Replace the Address Space; only the Memory Service's operations use it (R37). -/
def State.setMem (s : State) (m : Memory) : State := { s with mem := m }

/-- Set the Memory Service's status (R29). -/
def State.setService (s : State) (st : ServiceStatus) : State := { s with service := st }

/-- Set the engine's run status (R28). -/
def State.setRun (s : State) (r : RunStatus) : State := { s with run := r }

/-- Append an event to the trace (R11, R30). -/
def State.emit (s : State) (e : Event) : State := { s with trace := s.trace ++ [e] }

/-- Record a request the engine sends (R30, R47). -/
def State.record (s : State) (r : Request) : State := { s with sent := s.sent ++ [r] }

/-- Count one draw of the random source (R79). -/
def State.countDraw (s : State) : State := { s with draws := s.draws + 1 }

/-! ### Statements of an instruction, in order (R9, R70 (f)) -/

/-- What some statements of a step lead to: a value and the state for the statements that follow, or a state in which the
run has halted. -/
inductive Eng (α : Type) where
  | ok (v : α) (s : State)
  | halt (s : State)
  deriving DecidableEq, Repr

/-- The statements that follow. After a halt none of them happens (R70 (f), R113, decision D10). -/
def Eng.bind {α β : Type} (e : Eng α) (f : α → State → Eng β) : Eng β :=
  match e with
  | .ok v s => f v s
  | .halt s => .halt s

/-- The end of the instruction: a halt is a next state too, in which the run status is `Halted` (R28, R119). -/
def Eng.finish (e : Eng Unit) : Result :=
  match e with
  | .ok _ s => .next s
  | .halt s => .next s

/-! ### Halts (spec/60_exceptions.md R119 to R122) -/

/-- The Memory Service on TERMINATE: no reply, `Stopped`, the event `Shutdown`, `M` unchanged (R50). -/
def serveTerminate (s : State) : State := (s.setService .stopped).emit .shutdown

/-- The engine sends TERMINATE. -/
def sendTerminate (s : State) : State := serveTerminate (s.record .terminate)

/-- End the run cleanly (R106, R120). -/
def haltClean (s : State) : State := (sendTerminate s).setRun (.halted .clean)

/-- `raise PrivilegeViolation(a)`: TERMINATE first, then the fatal halt (R44, R121). -/
def haltPrivilege (a : Word) (s : State) : State :=
  (sendTerminate s).setRun (.halted (.privilegeViolation a))

/-- `raise ProtocolError(r)`: the Memory Service fails, no TERMINATE is sent, the run ends at once (R51, R122). -/
def haltProtocol (r : ProtocolReason) (s : State) : State :=
  (s.setService (.failed r)).setRun (.halted (.protocolError r))

/-- The run's exit status (R110, decision D16). -/
def HaltStatus.exitStatus : HaltStatus → Nat
  | .clean => 0
  | .privilegeViolation _ => 1
  | .protocolError _ => 2

/-! ### The Memory Service (spec/20_memory.md R48, R49, R51) -/

/-- The Memory Service's range check: `0 <= a < TOTAL_SIZE`, signed (R48). -/
def inRange (s : State) (a : Word) : Bool := decide (0 ≤ a.toInt) && decide (a.toInt < s.cfg.totalSize.toInt)

/-- A READ request: the cell's word is the reply, and `M` is unchanged (R48). -/
def serveRead (a : Word) (s : State) : Eng Word :=
  if inRange s a then .ok (s.mem.read a.toNat) s else .halt (haltProtocol (.addressOutOfRange a) s)

/-- A WRITE request: the cell is replaced, with no reply (R49, decision D14). -/
def serveWrite (a v : Word) (s : State) : Eng Unit :=
  if inRange s a then .ok () (s.setMem (s.mem.write a.toNat v))
  else .halt (haltProtocol (.addressOutOfRange a) s)

/-! ### The guarded access (R44) -/

/-- The engine's privilege check fails: USER mode and `a >= USER_LIMIT`, signed (R44). -/
def violates (s : State) (a : Word) : Bool :=
  decide (s.mode = .user) && decide (s.cfg.userLimit.toInt ≤ a.toInt)

/-- The one operation every memory access goes through: the privilege check, then the request, then the Memory Service
(R44). A violating access sends no request for the address. -/
def guarded {α : Type} (a : Word) (request : Request) (serve : State → Eng α) (s : State) : Eng α :=
  if violates s a then .halt (haltPrivilege a s) else serve (s.record request)

/-- `Read(a)` (R10, R44). -/
def memRead (a : Word) (s : State) : Eng Word := guarded a (.read a) (serveRead a) s

/-- `Write(a, v)` (R10, R44). -/
def memWrite (a v : Word) (s : State) : Eng Unit := guarded a (.write a v) (serveWrite a v) s

/-! ### The stack (spec/45_stack.md R101) -/

/-- `Push(v)`: pre-decrement, then write. If the write fails SP stays decremented (R102, R70 (f)). -/
def pushWord (v : Word) (s : State) : Eng Unit := memWrite (s.sp - 1#32) v (s.setSp (s.sp - 1#32))

/-- `Pop()`: read, then post-increment. -/
def popWord (s : State) : Eng Word :=
  (memRead s.sp s).bind fun t s => .ok t (s.setSp (s.sp + 1#32))

/-! ### The system call: trap entry and trap return (spec/46_system.md R104, R105; R114, R115) -/

/-- Trap entry, the USER branch of Int: switch to KERNEL, save the user SP and then the PC on the system stack, go to
`INT_HANDLER`. The pushes are KERNEL accesses (R104). -/
def enterHandler (s : State) : Eng Unit :=
  (pushWord s.sp ((s.setMode .kernel).setSp s.cfg.sysStackTop)).bind fun _ s =>
  (pushWord s.pc s).bind fun _ s =>
  .ok () (s.setPc s.cfg.intHandler)

/-- Trap return, the KERNEL branch of IRet: pop PC, pop SP (the popped word replaces the incremented SP, decision D9),
then back to USER (R105). -/
def leaveHandler (s : State) : Eng Unit :=
  (popWord s).bind fun t s =>
  (popWord (s.setPc t)).bind fun t s =>
  .ok () ((s.setSp t).setMode .user)

/-! ### The random source (spec/41_io.md R79) -/

/-- The word of the `n`-th draw: free in `[1, 100]` (notes/assumptions/3.md). -/
def drawWord (n : Nat) : Word := BitVec.ofNat 32 ((Config.freeDraw n).val + 1)

/-- `draw Random()`: a fresh free value (R11, R79). -/
def drawRandom (s : State) : Eng Word := .ok (drawWord s.draws) s.countDraw

end Sys2Proof.Machine
end

