-- ==== Sys2Proof/Machine/Arithmetic.lean ====
section
/-! DEFINITION. Arithmetic (spec/42_arithmetic.md R82 to R88): modulo 2^32, with no flag and no trap (decision D4). -/

namespace Sys2Proof.Machine

/-- `AddX` (R83). -/
def execAddX (s : State) : Result := .next (s.setAc (s.ac + s.x))

/-- `AddY` (R84). -/
def execAddY (s : State) : Result := .next (s.setAc (s.ac + s.y))

/-- `SubX` (R85). -/
def execSubX (s : State) : Result := .next (s.setAc (s.ac - s.x))

/-- `SubY` (R86). -/
def execSubY (s : State) : Result := .next (s.setAc (s.ac - s.y))

/-- `IncX` (R87). -/
def execIncX (s : State) : Result := .next (s.setX (s.x + 1#32))

/-- `DecX` (R88). -/
def execDecX (s : State) : Result := .next (s.setX (s.x - 1#32))

end Sys2Proof.Machine
end

