-- ==== Sys2Proof/Machine/Flags.lean ====
section
/-! DEFINITION. The machine has no status flag, condition code, carry or overflow bit (spec/10_state.md R26;
spec/42_arithmetic.md R82). What stands in their place is the test of AC that the conditional jumps make. -/

namespace Sys2Proof.Machine

/-- `AC == 0` (R26, R97, R98). -/
def acIsZero (s : State) : Bool := decide (s.ac = 0#32)

end Sys2Proof.Machine
end

