-- ==== Sys2Proof/Machine/Operands.lean ====
section
/-! DEFINITION. The operand cell and the address of each addressing form (spec/30_encoding.md R62, R63). -/

namespace Sys2Proof.Machine

/-- The opcode fetch: the cell at PC goes into IR, and PC moves on (R21 (1), R23, R32). If the read fails neither
changes. -/
def fetchOpcode (s : State) : Eng Word :=
  (memRead s.pc s).bind fun op s => .ok op ((s.setIr op).setPc (s.pc + 1#32))

/-- `Operand()`: a guarded read at PC in the current mode, PC then moving on; IR is not written (R21 (2), R62,
R23). PC does not move if the read fails. -/
def fetchOperand (s : State) : Eng Word :=
  (memRead s.pc s).bind fun v s => .ok v (s.setPc (s.pc + 1#32))

/-- `a + X` modulo 2^32, not range-checked until it is accessed (R63, R74). -/
def indexedX (s : State) (a : Word) : Word := a + s.x

/-- `a + Y` modulo 2^32 (R63, R75). -/
def indexedY (s : State) (a : Word) : Word := a + s.y

/-- `SP + X` modulo 2^32 (R63, R76). -/
def stackIndexed (s : State) : Word := s.sp + s.x

end Sys2Proof.Machine
end

