-- ==== Sys2Proof/Machine/Control.lean ====
section
/-! DEFINITION. Control transfer, call and return (spec/44_control_transfer.md R95 to R100). A target is any word; the
next fetch checks it (R95). PC is past the operand on entry, so a jump not taken leaves it there. -/

namespace Sys2Proof.Machine

/-- `Jump_Addr a` (R96). -/
def execJumpAddr (a : Word) (s : State) : Result := .next (s.setPc a)

/-- `JumpIfEqual a` (R97). -/
def execJumpIfEqual (a : Word) (s : State) : Result :=
  .next (if acIsZero s then s.setPc a else s)

/-- `JumpIfNotEqual a` (R98). -/
def execJumpIfNotEqual (a : Word) (s : State) : Result :=
  .next (if acIsZero s then s else s.setPc a)

/-- `Call_Addr a`: push the return address, the PC past the operand, then jump (R99). -/
def execCallAddr (a : Word) (s : State) : Result :=
  ((pushWord s.pc s).bind fun _ s => .ok () (s.setPc a)).finish

/-- `Ret` (R100). -/
def execRet (s : State) : Result :=
  ((popWord s).bind fun t s => .ok () (s.setPc t)).finish

end Sys2Proof.Machine
end

