-- ==== Sys2Proof/Machine/InputOutput.lean ====
section
/-! DEFINITION. The random source and the output port (spec/41_io.md R78 to R81). -/

namespace Sys2Proof.Machine

/-- Emit AC on a port: ports 1 and 2 emit an event, any other port nothing (R78, R81). -/
def emitPort (p : Word) (s : State) : State :=
  if p = 1#32 then s.emit (.output 1#32 s.ac)
  else if p = 2#32 then s.emit (.output 2#32 s.ac)
  else s

/-- `Get` (R80). -/
def execGet (s : State) : Result :=
  ((drawRandom s).bind fun r s => .ok () (s.setAc r)).finish

/-- `Put_Port p` (R81). -/
def execPutPort (p : Word) (s : State) : Result := .next (emitPort p s)

end Sys2Proof.Machine
end

