-- ==== Sys2Proof/Machine/LoadStore.lean ====
section
/-! DEFINITION. Loads and stores (spec/40_load_store.md R71 to R77). The operand has been fetched by the step. -/

namespace Sys2Proof.Machine

/-- `AC <- Read(a)`. -/
def loadFrom (a : Word) (s : State) : Eng Unit :=
  (memRead a s).bind fun v s => .ok () (s.setAc v)

/-- `Load_Val v` (R71). -/
def execLoadVal (v : Word) (s : State) : Result := .next (s.setAc v)

/-- `Load_Addr a` (R72). -/
def execLoadAddr (a : Word) (s : State) : Result := (loadFrom a s).finish

/-- `LoadInd_Addr a`: the pointer is read, then the cell it names, each checked separately (R73). -/
def execLoadIndAddr (a : Word) (s : State) : Result :=
  ((memRead a s).bind fun p s => loadFrom p s).finish

/-- `LoadIdxX_Addr a` (R74). -/
def execLoadIdxXAddr (a : Word) (s : State) : Result := (loadFrom (indexedX s a) s).finish

/-- `LoadIdxY_Addr a` (R75). -/
def execLoadIdxYAddr (a : Word) (s : State) : Result := (loadFrom (indexedY s a) s).finish

/-- `LoadSpX` (R76). -/
def execLoadSpX (s : State) : Result := (loadFrom (stackIndexed s) s).finish

/-- `Store_Addr a` (R77). -/
def execStoreAddr (a : Word) (s : State) : Result := (memWrite a s.ac s).finish

end Sys2Proof.Machine
end

