-- ==== Sys2Proof/Machine/Stack.lean ====
section
/-! DEFINITION. Push and Pop (spec/45_stack.md R102, R103). -/

namespace Sys2Proof.Machine

/-- `Push` (R102). -/
def execPush (s : State) : Result := (pushWord s.ac s).finish

/-- `Pop`: the popped cell is not cleared (R103). -/
def execPop (s : State) : Result :=
  ((popWord s).bind fun t s => .ok () (s.setAc t)).finish

end Sys2Proof.Machine
end

