-- ==== Sys2Proof/Machine/System.lean ====
section
/-! DEFINITION. System call, return from system call, terminate (spec/46_system.md R104 to R108). -/

namespace Sys2Proof.Machine

/-- `Int`: trap entry in USER mode, a no-op in KERNEL mode (R104). -/
def execInt (s : State) : Result :=
  match s.mode with
  | .user => (enterHandler s).finish
  | .kernel => .next s

/-- `IRet`: trap return in KERNEL mode, a no-op in USER mode (R105). -/
def execIRet (s : State) : Result :=
  match s.mode with
  | .user => .next s
  | .kernel => (leaveHandler s).finish

/-- `End`: in either mode, TERMINATE and the clean halt (R106). -/
def execEndRun (s : State) : Result := .next (haltClean s)

end Sys2Proof.Machine
end

