-- ==== Sys2Proof/Machine/Transfer.lean ====
section
/-! DEFINITION. Register transfer (spec/43_register_transfer.md R89 to R94). -/

namespace Sys2Proof.Machine

/-- `CopyToX` (R89). -/
def execCopyToX (s : State) : Result := .next (s.setX s.ac)

/-- `CopyFromX` (R90). -/
def execCopyFromX (s : State) : Result := .next (s.setAc s.x)

/-- `CopyToY` (R91). -/
def execCopyToY (s : State) : Result := .next (s.setY s.ac)

/-- `CopyFromY` (R92). -/
def execCopyFromY (s : State) : Result := .next (s.setAc s.y)

/-- `CopyToSp`: any word, in either mode, unchecked (R93). -/
def execCopyToSp (s : State) : Result := .next (s.setSp s.ac)

/-- `CopyFromSp` (R94). -/
def execCopyFromSp (s : State) : Result := .next (s.setAc s.sp)

end Sys2Proof.Machine
end

