-- ==== Sys2Proof/Machine/Dispatch.lean ====
section
/-! DEFINITION. The meaning of each instruction, one arm per constructor. -/

namespace Sys2Proof.Machine

-- The state given is the one after the fetch of the instruction's cells (spec/40_load_store.md R70 (c)).
def exec (i : Instr) (s : State) : Host.Outcome State Fault Refusal :=
  match i with
  | .loadVal v => Sys2Proof.Machine.execLoadVal v s
  | .loadAddr a => Sys2Proof.Machine.execLoadAddr a s
  | .loadIndAddr a => Sys2Proof.Machine.execLoadIndAddr a s
  | .loadIdxXAddr a => Sys2Proof.Machine.execLoadIdxXAddr a s
  | .loadIdxYAddr a => Sys2Proof.Machine.execLoadIdxYAddr a s
  | .loadSpX => Sys2Proof.Machine.execLoadSpX s
  | .storeAddr a => Sys2Proof.Machine.execStoreAddr a s
  | .get => Sys2Proof.Machine.execGet s
  | .putPort p => Sys2Proof.Machine.execPutPort p s
  | .addX => Sys2Proof.Machine.execAddX s
  | .addY => Sys2Proof.Machine.execAddY s
  | .subX => Sys2Proof.Machine.execSubX s
  | .subY => Sys2Proof.Machine.execSubY s
  | .copyToX => Sys2Proof.Machine.execCopyToX s
  | .copyFromX => Sys2Proof.Machine.execCopyFromX s
  | .copyToY => Sys2Proof.Machine.execCopyToY s
  | .copyFromY => Sys2Proof.Machine.execCopyFromY s
  | .copyToSp => Sys2Proof.Machine.execCopyToSp s
  | .copyFromSp => Sys2Proof.Machine.execCopyFromSp s
  | .jumpAddr a => Sys2Proof.Machine.execJumpAddr a s
  | .jumpIfEqual a => Sys2Proof.Machine.execJumpIfEqual a s
  | .jumpIfNotEqual a => Sys2Proof.Machine.execJumpIfNotEqual a s
  | .callAddr a => Sys2Proof.Machine.execCallAddr a s
  | .ret => Sys2Proof.Machine.execRet s
  | .incX => Sys2Proof.Machine.execIncX s
  | .decX => Sys2Proof.Machine.execDecX s
  | .push => Sys2Proof.Machine.execPush s
  | .pop => Sys2Proof.Machine.execPop s
  | .int => Sys2Proof.Machine.execInt s
  | .iRet => Sys2Proof.Machine.execIRet s
  | .endRun => Sys2Proof.Machine.execEndRun s

end Sys2Proof.Machine
end

