-- ==== Sys2Proof/Machine/Fetch.lean ====
section
/-! DEFINITION. The fetch and decode of one step (spec/10_state.md R32; spec/30_encoding.md R62, R64, R66). -/

namespace Sys2Proof.Machine

/-- What the fetch of a step leads to. -/
inductive Fetched where
  /-- An instruction, with its operand, and the state its meaning starts from (R70 (c)). -/
  | run (i : Instr) (s : State)
  /-- The step is over: the run halted in the fetch, or the opcode was malformed. -/
  | over (s : State)
  deriving DecidableEq, Repr

/-- A malformed opcode: nothing but the event `Anomaly(PC0, IR)` after the fetch (R107). -/
def malformed (pc0 : Word) (s : State) : State := s.emit (.anomaly pc0 s.ir)

/-- The operand fetch of a class that has an operand (R62); a class of format N reads no second cell (R64). -/
def fetchRest (c : Opcode) (s : State) : Fetched :=
  if c.hasOperand then
    match fetchOperand s with
    | .ok v s => .run (c.withOperand v) s
    | .halt s => .over s
  else .run (c.withOperand 0) s

/-- The opcode fetch, the decode, which is total over all words, and the operand fetch. -/
def fetchInstr (s : State) : Fetched :=
  match fetchOpcode s with
  | .halt s' => .over s'
  | .ok op s' =>
    match s'.cfg.opcodeMap.classOf op with
    | none => .over (malformed s.pc s')
    | some c => fetchRest c s'

/-- Store cells from an address on, leaving out those outside the Address Space. -/
def placeCells : List Word → Word → State → State
  | [], _, s => s
  | w :: rest, a, s =>
    placeCells rest (a + 1#32) (if inRange s a then s.setMem (s.mem.write a.toNat w) else s)

end Sys2Proof.Machine
end

