-- ==== Sys2Proof/Machine/Launch.lean ====
section
/-! DEFINITION. The launch of a run (spec/70_reset_and_hazards.md R128; spec/20_memory.md R46). -/

namespace Sys2Proof.Machine

/-- One image entry goes into the Address Space. -/
def loadEntry (m : Memory) (e : Word × Word) : Memory := m.write e.1.toNat e.2

/-- The Memory Service writes the image, entry by entry (R46, R128 (3)). -/
def loadImage (image : Image) (s : State) : State := s.setMem (image.foldl loadEntry s.mem)

/-- A launch (R128): refused if the configuration breaks a constraint (R6) or an image entry lies outside
`[0, TOTAL_SIZE)` (R46); else the state before the first step, the service serving. -/
def launch (c : Config) (image : Image) : Result :=
  if c.Valid then
    match image.firstOutside c with
    | some e => .refused (.imageOutOfRange e.1)
    | none => .next ((loadImage image (State.powerOn c)).setService .serving)
  else .refused .invalidConfiguration

end Sys2Proof.Machine
end

