-- ==== Sys2Proof/Machine/Step.lean ====
section
/-! DEFINITION. One step of the engine (spec/10_state.md R32), and placing an instruction where it is fetched. -/

namespace Sys2Proof.Machine

/-- One step, taken only while the run status is `Running` and the Memory Service serves (R28, R29, R32). -/
def step (s : State) : Host.Outcome State Fault Refusal :=
  match s.run with
  | .halted h => .fault (.engineHalted h)
  | .running =>
    match s.service with
    | .serving =>
      match fetchInstr s with
      | .over s' => .next s'
      | .run i s' => exec i s'
    | st => .fault (.serviceNotServing st)

/-- The state with the cells of the instruction whose bits are `w` stored at PC, as a launch image would have put them
there (R46; notes/assumptions/9.md). -/
def State.withFetchWord (s : State) (nbits w : Nat) : State := placeCells (tableCells nbits w) s.pc s

end Sys2Proof.Machine
end

