-- ==== Sys2Proof/Machine/Channel.lean ====
section
/-! DEFINITION. The serialised form of a request (spec/20_memory.md R47, R51, decision D15). The engine sends typed
requests, so no step goes through this file; it says what the Memory Service does with a discriminant it receives. -/

namespace Sys2Proof.Machine

/-- A serialised request: a discriminant and the payload words its kind uses (R47). -/
structure RawRequest where
  discriminant : Word
  addr : Word
  val : Word
  deriving DecidableEq, Repr

/-- The serialised form of a typed request; a payload word the kind does not use is 0. -/
def serialise (codes : MsgCode) : Request → RawRequest
  | .read a => { discriminant := codes.read, addr := a, val := 0 }
  | .write a v => { discriminant := codes.write, addr := a, val := v }
  | .terminate => { discriminant := codes.terminate, addr := 0, val := 0 }

/-- The Memory Service on a typed request, with its reply if it sends one (R48, R49, R50). -/
def serve (r : Request) (s : State) : Eng (Option Word) :=
  match r with
  | .read a => (serveRead a s).bind fun v s => .ok (some v) s
  | .write a v => (serveWrite a v s).bind fun _ s => .ok none s
  | .terminate => .ok none (serveTerminate s)

/-- The Memory Service on a serialised request: a discriminant outside the three codes is a protocol error (R51).
DESIGN CHOICE (notes/assumptions/8.md): the spec does not say that the three codes are distinct; a discriminant that is
the code of two kinds is taken as READ before WRITE before TERMINATE. -/
def serveRaw (codes : MsgCode) (q : RawRequest) (s : State) : Eng (Option Word) :=
  if q.discriminant = codes.read then serve (.read q.addr) s
  else if q.discriminant = codes.write then serve (.write q.addr q.val) s
  else if q.discriminant = codes.terminate then serve .terminate s
  else .halt (haltProtocol (.badDiscriminant q.discriminant) s)

end Sys2Proof.Machine
end

