-- ==== Sys2Proof/Safety.lean ====
section
/-! DEFINITION. The terms statements about safe runs use: which accesses are allowed, what a fatal halt leaves, and what
holds of every state a run reaches. -/

namespace Sys2Proof.Machine

/-- An access to `a` is allowed: in USER mode `a` lies below `USER_LIMIT`, and in either mode it lies in
`[0, TOTAL_SIZE)` (R44, R45). -/
abbrev Accessible (s : State) (a : Word) : Prop :=
  (s.mode = .user → a.toInt < s.cfg.userLimit.toInt) ∧ 0 ≤ a.toInt ∧ a.toInt < s.cfg.totalSize.toInt

/-- An access to `a` is a privilege violation (R44). -/
abbrev Violating (s : State) (a : Word) : Prop := s.mode = .user ∧ s.cfg.userLimit.toInt ≤ a.toInt

/-- An access to `a` passes the privilege check and fails the range check (R44, R51). -/
abbrev OutOfRange (s : State) (a : Word) : Prop :=
  ¬ Violating s a ∧ (a.toInt < 0 ∨ s.cfg.totalSize.toInt ≤ a.toInt)

/-- What an access that violates privilege leaves (R44, R121): TERMINATE sent, no request for `a`, the service stopped,
the run halted, everything else as before. -/
def afterViolation (a : Word) (s : State) : State :=
  { s with
    run := .halted (.privilegeViolation a)
    service := .stopped
    trace := s.trace ++ [.shutdown]
    sent := s.sent ++ [.terminate] }

/-- What a request for an address outside the Address Space leaves (R51, R122): the request sent, no TERMINATE, the
service failed, the run halted, everything else as before. -/
def afterOutOfRange (q : Request) (a : Word) (s : State) : State :=
  { s with
    run := .halted (.protocolError (.addressOutOfRange a))
    service := .failed (.addressOutOfRange a)
    sent := s.sent ++ [q] }

/-- The service status that goes with each run status (R29, R50, R51, R120 to R122). -/
def serviceAfter : RunStatus → ServiceStatus
  | .running => .serving
  | .halted .clean => .stopped
  | .halted (.privilegeViolation _) => .stopped
  | .halted (.protocolError r) => .failed r

/-- Every listed cell is a cell of the Address Space (R37). -/
def MemoryInside (s : State) : Prop := ∀ e ∈ s.mem, (e.1 : Int) < s.cfg.totalSize.toInt

/-- An event that a rule can emit: an output on port 1 or 2 (R78), an anomaly of a word with no class (R107), or the
shutdown. -/
def EventAllowed (c : Config) : Event → Prop
  | .output p _ => p = 1#32 ∨ p = 2#32
  | .anomaly _ w => c.opcodeMap.classOf w = none
  | .shutdown => True

/-- What holds of every state a run reaches. -/
structure Consistent (s : State) : Prop where
  /-- The configuration was accepted at launch (R6). -/
  config : s.cfg.Valid
  /-- The memory is in canonical form. -/
  memory : s.mem.wf = true
  /-- No cell outside the Address Space is listed (R37). -/
  inside : MemoryInside s
  /-- The two agents' statuses agree, so neither is left blocked (R54). -/
  statuses : s.service = serviceAfter s.run
  /-- Every event of the trace is one a rule emits (R30). -/
  events : ∀ e ∈ s.trace, EventAllowed s.cfg e
  /-- `Shutdown` stands in the trace just when the service was stopped by TERMINATE (R50). -/
  shutdown : Event.shutdown ∈ s.trace ↔ s.service = .stopped
  /-- TERMINATE has been sent just when the service was stopped by it (R50, R54). -/
  terminated : Request.terminate ∈ s.sent ↔ s.service = .stopped

/-- What a WRITE request that was served does to the Address Space; every other request leaves it (R43, R49, R53). -/
def applyRequest (c : Config) (m : Memory) : Request → Memory
  | .write a v => if 0 ≤ a.toInt ∧ a.toInt < c.totalSize.toInt then m.write a.toNat v else m
  | .read _ => m
  | .terminate => m

/-- Two states alike but for cells of the system region (R36). -/
def SameForUser (s t : State) : Prop :=
  t = { s with mem := t.mem } ∧ ∀ a : Nat, (a : Int) < s.cfg.userLimit.toInt → t.mem.read a = s.mem.read a

/-- The anomalies of a slide over `n` zero cells from `pc` up, in order (R107). -/
def slideAnomalies (n : Nat) (pc : Word) : List Event :=
  (List.range n).map fun i => .anomaly (pc + BitVec.ofNat 32 i) 0#32

/-- The opcode fetches of that slide. -/
def slideReads (n : Nat) (pc : Word) : List Request :=
  (List.range n).map fun i => .read (pc + BitVec.ofNat 32 i)

/-- The same machine with another `TIMER_THRESHOLD` (R112). -/
def withTimer (n : Option Nat) (s : State) : State := { s with cfg := { s.cfg with timerThreshold := n } }

end Sys2Proof.Machine
end

