-- ==== Sys2Proof/Certificates/Slice0/Obligations.lean ====
section
/-! DEFINITION. The statements for the provers. Nothing is proved here. The state a meaning is given is the one after
the fetch of the instruction's cells: PC is past them and IR holds the opcode (spec/40_load_store.md R70 (c)). A
statement that gives the whole next state as `{ s with … }` says that every other piece of state is unchanged. -/

open Sys2Proof Sys2Proof.Machine

/-! ### Encoding -/

/-- Under any injective opcode map, decoding the cells of an instruction gives it back and leaves the cells after it
(R60, R61, R64, R65). -/
def Obligations.DecodeOfEncode : Prop :=
  ∀ (m : OpcodeMap), (Opcode.all.map m.numberOf).Nodup → ∀ (i : Instr) (rest : List Word),
    decode m (encode m i ++ rest) = .ok (i, rest)

/-- Cells that decode are the encoding of what they decode to, followed by the cells left over: each sequence of cells
spells at most one instruction, with every bit of both cells used (R60, R63). -/
def Obligations.EncodeOfDecode : Prop :=
  ∀ (m : OpcodeMap) (cells : List Word) (i : Instr) (rest : List Word),
    decode m cells = .ok (i, rest) → cells = encode m i ++ rest

/-- Under the default map (PRESUMED numbers, log entry 1) the malformed words are those outside 1 to 30 and 50, and the
decoder refuses each by name (R66). -/
def Obligations.MalformedWordsUnderDefaultMap : Prop :=
  ∀ (w : Word) (rest : List Word),
    (OpcodeMap.standard.classOf w = none ↔ ¬ (1 ≤ w.toInt ∧ w.toInt ≤ 30) ∧ w.toInt ≠ 50) ∧
    (OpcodeMap.standard.classOf w = none → decode OpcodeMap.standard (w :: rest) = .error (.malformedOpcode w))

/-- A few words of the default map (PRESUMED numbers, log entry 1), one of each family, decode to their instruction. -/
def Obligations.WrittenWordsDecode : Prop :=
  decode OpcodeMap.standard [1, 5] = .ok (.loadVal 5, []) ∧
  decode OpcodeMap.standard [7, 1500] = .ok (.storeAddr 1500, []) ∧
  decode OpcodeMap.standard [9, 1] = .ok (.putPort 1, []) ∧
  decode OpcodeMap.standard [10] = .ok (.addX, []) ∧
  decode OpcodeMap.standard [14] = .ok (.copyToX, []) ∧
  decode OpcodeMap.standard [22, 7] = .ok (.jumpIfNotEqual 7, []) ∧
  decode OpcodeMap.standard [27] = .ok (.push, []) ∧
  decode OpcodeMap.standard [29] = .ok (.int, []) ∧
  decode OpcodeMap.standard [50] = .ok (.endRun, [])

/-! ### The step -/

/-- Where the cells at PC decode to an instruction, a step is its meaning in the state after the fetch: IR holds the
opcode, PC is past the instruction's cells, and one READ was sent for each of them (R21, R32, R62). -/
def Obligations.StepRunsDecodedInstruction : Prop :=
  ∀ (s : State) (i : Instr) (rest : List Word), s.run = .running → s.service = .serving → Accessible s s.pc →
    decode s.cfg.opcodeMap [s.mem.read s.pc.toNat, s.mem.read (s.pc + 1#32).toNat] = .ok (i, rest) →
    (i.operand = none → step s = exec i
      { s with ir := s.mem.read s.pc.toNat, pc := s.pc + 1#32, sent := s.sent ++ [.read s.pc] }) ∧
    (∀ v, i.operand = some v → Accessible s (s.pc + 1#32) → step s = exec i
      { s with ir := s.mem.read s.pc.toNat, pc := s.pc + 2#32, sent := s.sent ++ [.read s.pc, .read (s.pc + 1#32)] })

/-- An opcode fetch that is not allowed halts the run with the register file as it was (R22, R32, R44). -/
def Obligations.OpcodeFetchHalts : Prop :=
  ∀ (s : State), s.run = .running → s.service = .serving →
    (Violating s s.pc → step s = .next (afterViolation s.pc s)) ∧
    (OutOfRange s s.pc → step s = .next (afterOutOfRange (.read s.pc) s.pc s))

/-- An operand fetch that is not allowed halts the run after the opcode fetch, whatever the instruction would have done
(R62, R70 (f), R97). -/
def Obligations.OperandFetchHalts : Prop :=
  ∀ (s : State) (c : Opcode), s.run = .running → s.service = .serving → Accessible s s.pc →
    s.cfg.opcodeMap.classOf (s.mem.read s.pc.toNat) = some c → c.hasOperand = true →
    (Violating s (s.pc + 1#32) → step s = .next (afterViolation (s.pc + 1#32)
      { s with ir := s.mem.read s.pc.toNat, pc := s.pc + 1#32, sent := s.sent ++ [.read s.pc] })) ∧
    (OutOfRange s (s.pc + 1#32) → step s = .next (afterOutOfRange (.read (s.pc + 1#32)) (s.pc + 1#32)
      { s with ir := s.mem.read s.pc.toNat, pc := s.pc + 1#32, sent := s.sent ++ [.read s.pc] }))

/-- A malformed opcode is a one-cell no-op that emits its anomaly (R66, R107). -/
def Obligations.MalformedOpcodeIsAnomaly : Prop :=
  ∀ (s : State), s.run = .running → s.service = .serving → Accessible s s.pc →
    s.cfg.opcodeMap.classOf (s.mem.read s.pc.toNat) = none →
    step s = .next { s with ir := s.mem.read s.pc.toNat, pc := s.pc + 1#32, sent := s.sent ++ [.read s.pc],
                            trace := s.trace ++ [.anomaly s.pc (s.mem.read s.pc.toNat)] }

/-- While the engine runs and the service serves a step has a next state, and a halted engine never has one (R28, R119).
The last clause is the model's choice (log entry 7, DESIGN CHOICE): beside a service that does not serve, which R54 and
U8 call stuck and unreachable, a step of a running engine is the fault `serviceNotServing`. -/
def Obligations.StepExistsExactlyWhileRunning : Prop :=
  ∀ (s : State),
    (s.run = .running → s.service = .serving → ∃ t, step s = .next t) ∧
    (∀ h, s.run = .halted h → step s = .fault (.engineHalted h)) ∧
    (s.run = .running → s.service ≠ .serving → step s = .fault (.serviceNotServing s.service))

/-- No instruction is refused or faults: no instruction traps for being executed in a mode (R108), and the only fatal
conditions are those of accesses (R109). That a fatal halt is a next state is log entry 2 (DEDUCED), and that `exec` has a
meaning in every state, a halted one too, is the model's choice (log entry 7, DESIGN CHOICE). -/
def Obligations.EveryMeaningHasNextState : Prop :=
  ∀ (i : Instr) (s : State), ∃ t, exec i s = .next t

/-! ### Loads and stores -/

/-- `Load_Val` (R71). -/
def Obligations.LoadValueSetsAccumulator : Prop :=
  ∀ (v : Word) (s : State), exec (.loadVal v) s = .next { s with ac := v }

/-- The direct, indexed and stack-relative loads read one cell into AC (R72, R74, R75, R76). -/
def Obligations.LoadsReadTheirCell : Prop :=
  ∀ (a : Word) (s : State),
    (Accessible s a → exec (.loadAddr a) s =
      .next { s with ac := s.mem.read a.toNat, sent := s.sent ++ [.read a] }) ∧
    (Accessible s (a + s.x) → exec (.loadIdxXAddr a) s =
      .next { s with ac := s.mem.read (a + s.x).toNat, sent := s.sent ++ [.read (a + s.x)] }) ∧
    (Accessible s (a + s.y) → exec (.loadIdxYAddr a) s =
      .next { s with ac := s.mem.read (a + s.y).toNat, sent := s.sent ++ [.read (a + s.y)] }) ∧
    (Accessible s (s.sp + s.x) → exec .loadSpX s =
      .next { s with ac := s.mem.read (s.sp + s.x).toNat, sent := s.sent ++ [.read (s.sp + s.x)] })

/-- `LoadInd_Addr` reads the pointer and then the cell it names (R73). -/
def Obligations.IndirectLoadFollowsPointer : Prop :=
  ∀ (a p : Word) (s : State), p = s.mem.read a.toNat → Accessible s a → Accessible s p →
    exec (.loadIndAddr a) s =
      .next { s with ac := s.mem.read p.toNat, sent := s.sent ++ [.read a, .read p] }

/-- A load from an address that is not allowed halts the run with AC unchanged (R72 to R76, R44). The indirect load
checks its two reads separately (R73). -/
def Obligations.LoadsHaltOnBadAddress : Prop :=
  ∀ (a p : Word) (s : State),
    (Violating s a → exec (.loadAddr a) s = .next (afterViolation a s) ∧
      exec (.loadIndAddr a) s = .next (afterViolation a s)) ∧
    (OutOfRange s a → exec (.loadAddr a) s = .next (afterOutOfRange (.read a) a s) ∧
      exec (.loadIndAddr a) s = .next (afterOutOfRange (.read a) a s)) ∧
    (Violating s (a + s.x) → exec (.loadIdxXAddr a) s = .next (afterViolation (a + s.x) s)) ∧
    (OutOfRange s (a + s.x) →
      exec (.loadIdxXAddr a) s = .next (afterOutOfRange (.read (a + s.x)) (a + s.x) s)) ∧
    (Violating s (a + s.y) → exec (.loadIdxYAddr a) s = .next (afterViolation (a + s.y) s)) ∧
    (OutOfRange s (a + s.y) →
      exec (.loadIdxYAddr a) s = .next (afterOutOfRange (.read (a + s.y)) (a + s.y) s)) ∧
    (Violating s (s.sp + s.x) → exec .loadSpX s = .next (afterViolation (s.sp + s.x) s)) ∧
    (OutOfRange s (s.sp + s.x) →
      exec .loadSpX s = .next (afterOutOfRange (.read (s.sp + s.x)) (s.sp + s.x) s)) ∧
    (Accessible s a → p = s.mem.read a.toNat →
      (Violating s p → exec (.loadIndAddr a) s =
        .next (afterViolation p { s with sent := s.sent ++ [.read a] })) ∧
      (OutOfRange s p → exec (.loadIndAddr a) s =
        .next (afterOutOfRange (.read p) p { s with sent := s.sent ++ [.read a] })))

/-- `Store_Addr` stores AC in the cell its operand names and leaves every other cell (R77, R43). -/
def Obligations.StoreWritesOneCell : Prop :=
  ∀ (a : Word) (s : State), s.mem.wf = true → Accessible s a →
    ∃ t, exec (.storeAddr a) s = .next t ∧
      t = { s with mem := t.mem, sent := s.sent ++ [.write a s.ac] } ∧
      t.mem.wf = true ∧ t.mem.read a.toNat = s.ac ∧
      ∀ b, b ≠ a.toNat → t.mem.read b = s.mem.read b

/-- A store to an address that is not allowed stores nothing (R77, R44, R121). -/
def Obligations.StoreHaltsOnBadAddress : Prop :=
  ∀ (a : Word) (s : State),
    (Violating s a → exec (.storeAddr a) s = .next (afterViolation a s)) ∧
    (OutOfRange s a → exec (.storeAddr a) s = .next (afterOutOfRange (.write a s.ac) a s))

/-- A store into the cell at PC is what the next opcode fetch reads, with no fence or delay (R58). -/
def Obligations.StoreIsSeenByNextFetch : Prop :=
  ∀ (s : State), s.mem.wf = true → Accessible s s.pc →
    ∃ t u, exec (.storeAddr s.pc) s = .next t ∧ fetchOpcode t = .ok s.ac u ∧ u.ir = s.ac

/-! ### Random source and output port -/

/-- `Get` puts a draw in AC: whatever the free draw is, it lies in [1, 100] (R79, R80). The field `draws`, which counts
the draw, is the model's own (log entry 3, DESIGN CHOICE). -/
def Obligations.GetDrawsWithinBounds : Prop :=
  ∀ (s : State), ∃ r : Word, 1 ≤ r.toInt ∧ r.toInt ≤ 100 ∧
    exec .get s = .next { s with ac := r, draws := s.draws + 1 }

/-- `Put_Port` emits AC on ports 1 and 2 and does nothing on any other (R78, R81). -/
def Obligations.PutPortEmitsOnItsTwoPorts : Prop :=
  ∀ (p : Word) (s : State),
    (p = 1#32 → exec (.putPort p) s = .next { s with trace := s.trace ++ [.output 1#32 s.ac] }) ∧
    (p = 2#32 → exec (.putPort p) s = .next { s with trace := s.trace ++ [.output 2#32 s.ac] }) ∧
    (p ≠ 1#32 → p ≠ 2#32 → exec (.putPort p) s = .next s)

/-! ### Arithmetic and register transfer -/

/-- The six arithmetic instructions: the exact sum or difference reduced into the signed 32-bit range, and nothing else
changes (R82 to R88). -/
def Obligations.ArithmeticWraps : Prop :=
  ∀ (s : State),
    (∃ r : Word, r.toInt = (s.ac.toInt + s.x.toInt).bmod (2 ^ 32) ∧ exec .addX s = .next { s with ac := r }) ∧
    (∃ r : Word, r.toInt = (s.ac.toInt + s.y.toInt).bmod (2 ^ 32) ∧ exec .addY s = .next { s with ac := r }) ∧
    (∃ r : Word, r.toInt = (s.ac.toInt - s.x.toInt).bmod (2 ^ 32) ∧ exec .subX s = .next { s with ac := r }) ∧
    (∃ r : Word, r.toInt = (s.ac.toInt - s.y.toInt).bmod (2 ^ 32) ∧ exec .subY s = .next { s with ac := r }) ∧
    (∃ r : Word, r.toInt = (s.x.toInt + 1).bmod (2 ^ 32) ∧ exec .incX s = .next { s with x := r }) ∧
    (∃ r : Word, r.toInt = (s.x.toInt - 1).bmod (2 ^ 32) ∧ exec .decX s = .next { s with x := r })

/-- The six copies (R89 to R94). -/
def Obligations.TransfersCopyOneRegister : Prop :=
  ∀ (s : State),
    exec .copyToX s = .next { s with x := s.ac } ∧ exec .copyFromX s = .next { s with ac := s.x } ∧
    exec .copyToY s = .next { s with y := s.ac } ∧ exec .copyFromY s = .next { s with ac := s.y } ∧
    exec .copyToSp s = .next { s with sp := s.ac } ∧ exec .copyFromSp s = .next { s with ac := s.sp }

/-! ### Control transfer -/

/-- The jumps: PC becomes the operand when taken, and stays past the operand when not (R95 to R98). -/
def Obligations.JumpsSetThePc : Prop :=
  ∀ (a : Word) (s : State),
    exec (.jumpAddr a) s = .next { s with pc := a } ∧
    (s.ac = 0#32 → exec (.jumpIfEqual a) s = .next { s with pc := a } ∧ exec (.jumpIfNotEqual a) s = .next s) ∧
    (s.ac ≠ 0#32 → exec (.jumpIfEqual a) s = .next s ∧ exec (.jumpIfNotEqual a) s = .next { s with pc := a })

/-- `Call_Addr` pushes the PC past its operand and jumps; no other cell changes (R99). -/
def Obligations.CallPushesReturnAddress : Prop :=
  ∀ (a : Word) (s : State), s.mem.wf = true → Accessible s (s.sp - 1#32) →
    ∃ t, exec (.callAddr a) s = .next t ∧
      t = { s with sp := s.sp - 1#32, pc := a, mem := t.mem, sent := s.sent ++ [.write (s.sp - 1#32) s.pc] } ∧
      t.mem.read (s.sp - 1#32).toNat = s.pc ∧
      ∀ b, b ≠ (s.sp - 1#32).toNat → t.mem.read b = s.mem.read b

/-- `Ret` pops the top of stack into PC (R100). -/
def Obligations.ReturnPopsThePc : Prop :=
  ∀ (s : State), Accessible s s.sp →
    exec .ret s = .next { s with pc := s.mem.read s.sp.toNat, sp := s.sp + 1#32, sent := s.sent ++ [.read s.sp] }

/-- Call and Ret balance: a Ret that finds SP and the cell at SP as the call left them, in the call's mode, resumes
right after the call's operand with the caller's SP (R99, R100). -/
def Obligations.CallAndReturnBalance : Prop :=
  ∀ (a : Word) (s : State), s.mem.wf = true → Accessible s (s.sp - 1#32) →
    ∃ t, exec (.callAddr a) s = .next t ∧
      ∀ u : State, u.cfg = t.cfg → u.mode = t.mode → u.sp = t.sp →
        u.mem.read t.sp.toNat = t.mem.read t.sp.toNat →
        ∃ w, exec .ret u = .next w ∧ w.pc = s.pc ∧ w.sp = s.sp

/-! ### Stack -/

/-- `Push` (R101, R102). -/
def Obligations.PushStoresAccumulator : Prop :=
  ∀ (s : State), s.mem.wf = true → Accessible s (s.sp - 1#32) →
    ∃ t, exec .push s = .next t ∧
      t = { s with sp := s.sp - 1#32, mem := t.mem, sent := s.sent ++ [.write (s.sp - 1#32) s.ac] } ∧
      t.mem.read (s.sp - 1#32).toNat = s.ac ∧
      ∀ b, b ≠ (s.sp - 1#32).toNat → t.mem.read b = s.mem.read b

/-- `Pop`: the popped cell is not cleared (R101, R103). -/
def Obligations.PopLoadsAccumulator : Prop :=
  ∀ (s : State), Accessible s s.sp →
    exec .pop s = .next { s with ac := s.mem.read s.sp.toNat, sp := s.sp + 1#32, sent := s.sent ++ [.read s.sp] }

/-- The four stack instructions where the stack address is not allowed: a push leaves SP decremented, a pop leaves SP
(R99 to R103, R70 (f)). -/
def Obligations.StackHaltsOnBadAddress : Prop :=
  ∀ (a : Word) (s : State),
    (Violating s (s.sp - 1#32) →
      exec .push s = .next (afterViolation (s.sp - 1#32) { s with sp := s.sp - 1#32 }) ∧
      exec (.callAddr a) s = .next (afterViolation (s.sp - 1#32) { s with sp := s.sp - 1#32 })) ∧
    (OutOfRange s (s.sp - 1#32) →
      exec .push s = .next (afterOutOfRange (.write (s.sp - 1#32) s.ac) (s.sp - 1#32) { s with sp := s.sp - 1#32 }) ∧
      exec (.callAddr a) s =
        .next (afterOutOfRange (.write (s.sp - 1#32) s.pc) (s.sp - 1#32) { s with sp := s.sp - 1#32 })) ∧
    (Violating s s.sp →
      exec .pop s = .next (afterViolation s.sp s) ∧ exec .ret s = .next (afterViolation s.sp s)) ∧
    (OutOfRange s s.sp →
      exec .pop s = .next (afterOutOfRange (.read s.sp) s.sp s) ∧
      exec .ret s = .next (afterOutOfRange (.read s.sp) s.sp s))

/-- A Pop after a Push gives back AC and SP, whatever happened to AC in between (R102, R103). -/
def Obligations.PopAfterPushRestores : Prop :=
  ∀ (s : State), s.mem.wf = true → Accessible s (s.sp - 1#32) →
    ∃ t, exec .push s = .next t ∧
      ∀ v : Word, ∃ u, exec .pop { t with ac := v } = .next u ∧ u.ac = s.ac ∧ u.sp = s.sp ∧ u.mem = t.mem

/-! ### System call, return, terminate -/

/-- `Int` in USER mode: the system-call entry, which cannot fault under the constraints on the configuration. The user
SP and then the PC are saved at the top of the system stack, and no other cell changes (R104, R114). -/
def Obligations.SystemCallEntersHandler : Prop :=
  ∀ (s : State), s.cfg.RegionsValid → s.mem.wf = true → s.mode = .user →
    ∃ t, exec .int s = .next t ∧
      t = { s with mode := .kernel, sp := s.cfg.sysStackTop - 2#32, pc := s.cfg.intHandler, mem := t.mem,
                   sent := s.sent ++ [.write (s.cfg.sysStackTop - 1#32) s.sp, .write (s.cfg.sysStackTop - 2#32) s.pc] } ∧
      t.mem.read (s.cfg.sysStackTop - 1#32).toNat = s.sp ∧
      t.mem.read (s.cfg.sysStackTop - 2#32).toNat = s.pc ∧
      ∀ b, b ≠ (s.cfg.sysStackTop - 1#32).toNat → b ≠ (s.cfg.sysStackTop - 2#32).toNat →
        t.mem.read b = s.mem.read b

/-- `IRet` in KERNEL mode: PC and then SP are popped, SP ends as the popped word, the mode is USER again (R105, R115). -/
def Obligations.SystemReturnRestores : Prop :=
  ∀ (s : State), s.mode = .kernel → Accessible s s.sp → Accessible s (s.sp + 1#32) →
    exec .iRet s = .next { s with mode := .user, pc := s.mem.read s.sp.toNat, sp := s.mem.read (s.sp + 1#32).toNat,
                                  sent := s.sent ++ [.read s.sp, .read (s.sp + 1#32)] }

/-- A pop of `IRet` outside the Address Space halts the run, still in KERNEL mode; where it is the second pop, PC already
holds the first popped word and SP is incremented once (R105, R70 (f)). -/
def Obligations.SystemReturnHaltsOnBadStack : Prop :=
  ∀ (s : State), s.mode = .kernel →
    (OutOfRange s s.sp → exec .iRet s = .next (afterOutOfRange (.read s.sp) s.sp s)) ∧
    (Accessible s s.sp → OutOfRange s (s.sp + 1#32) → exec .iRet s =
      .next (afterOutOfRange (.read (s.sp + 1#32)) (s.sp + 1#32)
        { s with pc := s.mem.read s.sp.toNat, sp := s.sp + 1#32, sent := s.sent ++ [.read s.sp] }))

/-- `Int` in KERNEL mode and `IRet` in USER mode are no-ops (R104, R105, R108). -/
def Obligations.SystemInstructionsAreNoOpsInOtherMode : Prop :=
  ∀ (s : State), (s.mode = .kernel → exec .int s = .next s) ∧ (s.mode = .user → exec .iRet s = .next s)

/-- `End`, in either mode: TERMINATE, then the clean halt (R106, R120). -/
def Obligations.EndHaltsCleanly : Prop :=
  ∀ (s : State), exec .endRun s = .next { s with run := .halted .clean, service := .stopped,
                                                 trace := s.trace ++ [.shutdown], sent := s.sent ++ [.terminate] }

/-- A step of Int and a step of IRet at the handler's address, where the handler's cell is not one that Int's pushes
replace: PC is right after the Int cell, SP, AC, X and Y are as before, and the mode is USER again (R104, R105). -/
def Obligations.SystemCallRoundTrip : Prop :=
  ∀ (s : State), s.run = .running → s.service = .serving → s.cfg.Valid → s.mem.wf = true → s.mode = .user →
    Accessible s s.pc → s.mem.read s.pc.toNat = s.cfg.opcodeMap.numberOf .int →
    s.mem.read s.cfg.intHandler.toNat = s.cfg.opcodeMap.numberOf .iRet →
    s.cfg.intHandler ≠ s.cfg.sysStackTop - 1#32 → s.cfg.intHandler ≠ s.cfg.sysStackTop - 2#32 →
    ∃ t u, step s = .next t ∧ t.mode = .kernel ∧ t.pc = s.cfg.intHandler ∧ t.sp = s.cfg.sysStackTop - 2#32 ∧
      step t = .next u ∧ u.mode = .user ∧ u.pc = s.pc + 1#32 ∧ u.sp = s.sp ∧
      u.ac = s.ac ∧ u.x = s.x ∧ u.y = s.y ∧ u.run = .running

/-! ### The guarded access and the Memory Service -/

/-- The guarded access: the privilege check before any request, then the request, then the range check (R44). -/
def Obligations.GuardedAccessChecksFirst : Prop :=
  ∀ (a v : Word) (s : State),
    (Violating s a → memRead a s = .halt (afterViolation a s) ∧ memWrite a v s = .halt (afterViolation a s)) ∧
    (OutOfRange s a → memRead a s = .halt (afterOutOfRange (.read a) a s) ∧
      memWrite a v s = .halt (afterOutOfRange (.write a v) a s)) ∧
    (Accessible s a →
      memRead a s = .ok (s.mem.read a.toNat) { s with sent := s.sent ++ [.read a] } ∧
      memWrite a v s =
        .ok () { s with mem := s.mem.write a.toNat v, sent := s.sent ++ [.write a v] })

/-- The Memory Service on a READ request: a reply of the cell's word with M unchanged, or a protocol error; the mode
does not matter (R48). -/
def Obligations.ServiceAnswersRead : Prop :=
  ∀ (a : Word) (s : State),
    (0 ≤ a.toInt ∧ a.toInt < s.cfg.totalSize.toInt → serveRead a s = .ok (s.mem.read a.toNat) s) ∧
    (a.toInt < 0 ∨ s.cfg.totalSize.toInt ≤ a.toInt → serveRead a s = .halt
      { s with service := .failed (.addressOutOfRange a),
               run := .halted (.protocolError (.addressOutOfRange a)) })

/-- The Memory Service on a WRITE request: the one cell is replaced, with no reply, or a protocol error stores nothing
(R49). -/
def Obligations.ServiceStoresWrite : Prop :=
  ∀ (a v : Word) (s : State), s.mem.wf = true →
    (0 ≤ a.toInt ∧ a.toInt < s.cfg.totalSize.toInt → ∃ t, serveWrite a v s = .ok () t ∧
      t = { s with mem := t.mem } ∧ t.mem.read a.toNat = v ∧ ∀ b, b ≠ a.toNat → t.mem.read b = s.mem.read b) ∧
    (a.toInt < 0 ∨ s.cfg.totalSize.toInt ≤ a.toInt → serveWrite a v s = .halt
      { s with service := .failed (.addressOutOfRange a),
               run := .halted (.protocolError (.addressOutOfRange a)) })

/-- A serialised request with a discriminant outside the three codes is a protocol error with no access and no reply;
with distinct codes a serialised request is served as the typed one (R47, R51). The codes are any (decision D15). -/
def Obligations.SerialisedRequestsAreServedOrFail : Prop :=
  ∀ (codes : MsgCode) (q : RawRequest) (r : Request) (s : State),
    (q.discriminant ≠ codes.read → q.discriminant ≠ codes.write → q.discriminant ≠ codes.terminate →
      serveRaw codes q s = .halt { s with service := .failed (.badDiscriminant q.discriminant),
                                          run := .halted (.protocolError (.badDiscriminant q.discriminant)) }) ∧
    (codes.read ≠ codes.write → codes.read ≠ codes.terminate → codes.write ≠ codes.terminate →
      serveRaw codes (serialise codes r) s = serve r s)

/-- The exit status of each halt: 0 only for the clean one, and the two fatal kinds differ (R110). -/
def Obligations.ExitStatusesAreDistinct : Prop :=
  HaltStatus.clean.exitStatus = 0 ∧
  (∀ a, (HaltStatus.privilegeViolation a).exitStatus = 1) ∧
  ∀ r, (HaltStatus.protocolError r).exitStatus = 2

/-! ### How a run ends -/

/-- A step ends the run cleanly only where the opcode at PC is End's: TERMINATE was sent and the service has stopped
(R120). -/
def Obligations.CleanHaltOnlyByEnd : Prop :=
  (∀ (s t : State), step s = .next t → t.run = .halted .clean →
    s.cfg.opcodeMap.classOf (s.mem.read s.pc.toNat) = some .endRun ∧ t.service = .stopped ∧ t.mem = s.mem ∧
    t.sent = s.sent ++ [.read s.pc, .terminate]) ∧
  HaltStatus.clean.exitStatus = 0

/-- A privilege violation is reached by the guarded access's check, which ends the run on every violating read or write,
and by nothing else: no request for the address was issued, TERMINATE was the last request, the service has stopped, and
no cell has changed (R121). -/
def Obligations.PrivilegeHaltOnlyByViolation : Prop :=
  (∀ (s t : State) (a : Word), step s = .next t → t.run = .halted (.privilegeViolation a) →
    Violating s a ∧ t.service = .stopped ∧ t.mem = s.mem ∧
    ∃ qs, t.sent = s.sent ++ qs ++ [.terminate] ∧ ∀ q ∈ qs, q ≠ .read a ∧ ∀ v, q ≠ .write a v) ∧
  (∀ (a v : Word) (s : State), Violating s a →
    memRead a s = .halt (afterViolation a s) ∧ memWrite a v s = .halt (afterViolation a s)) ∧
  ∀ a, (HaltStatus.privilegeViolation a).exitStatus = 1

/-- A step ends the run with a protocol error only on an address outside the Address Space: the request for it was the
last one, no TERMINATE was sent, the service has failed, and the request stored nothing (R122). -/
def Obligations.ProtocolHaltOnlyByBadAddress : Prop :=
  (∀ (s t : State) (r : ProtocolReason), step s = .next t → t.run = .halted (.protocolError r) →
    ∃ a q qs, r = .addressOutOfRange a ∧ (a.toInt < 0 ∨ s.cfg.totalSize.toInt ≤ a.toInt) ∧
      (q = .read a ∨ ∃ v, q = .write a v) ∧ t.service = .failed r ∧
      t.sent = s.sent ++ qs ++ [q] ∧ .terminate ∉ qs ∧ t.mem = qs.foldl (applyRequest s.cfg) s.mem) ∧
  (∀ (a v : Word) (s : State), OutOfRange s a →
    memRead a s = .halt (afterOutOfRange (.read a) a s) ∧ memWrite a v s = .halt (afterOutOfRange (.write a v) a s)) ∧
  ∀ r, (HaltStatus.protocolError r).exitStatus = 2

/-! ### Launch and reset -/

/-- A launch is refused for a configuration that breaks a constraint of R6, and for an opcode map that gives two classes
one number or a class the number of `IR_SENTINEL` (D1; that a launch checks this is log entry 10, DEDUCED). With a valid
configuration it is refused for an image that has an entry outside the Address Space, by the address of such an entry
(R46). A bad configuration is refused so for every image, a bad one too: that order of the two refusals is the model's
choice (log entry 10, DESIGN CHOICE). -/
def Obligations.LaunchRefusesBadInput : Prop :=
  ∀ (c : Config) (image : Image),
    (¬ c.RegionsValid → launch c image = .refused .invalidConfiguration) ∧
    ((∃ k l, k ≠ l ∧ c.opcodeMap.numberOf k = c.opcodeMap.numberOf l) →
      launch c image = .refused .invalidConfiguration) ∧
    ((∃ k, c.opcodeMap.numberOf k = c.irSentinel) → launch c image = .refused .invalidConfiguration) ∧
    (c.Valid → (∃ e ∈ image, e.1.toInt < 0 ∨ c.totalSize.toInt ≤ e.1.toInt) →
      ∃ e ∈ image, (e.1.toInt < 0 ∨ c.totalSize.toInt ≤ e.1.toInt) ∧
        launch c image = .refused (.imageOutOfRange e.1))

/-- A launch that is not refused gives every piece of state its reset value; a cell the image names, once, holds its word
and every other cell 0 (R46, R128, R129). The field `draws` is the model's own (log entry 3). -/
def Obligations.LaunchGivesResetValues : Prop :=
  ∀ (c : Config) (image : Image), c.Valid →
    (∀ e ∈ image, 0 ≤ e.1.toInt ∧ e.1.toInt < c.totalSize.toInt) → (image.map Prod.fst).Nodup →
    ∃ s, launch c image = .next s ∧
      s.cfg = c ∧ s.pc = 0 ∧ s.sp = c.userStackTop ∧ s.ir = c.irSentinel ∧ s.ac = 0 ∧ s.x = 0 ∧ s.y = 0 ∧
      s.mode = .user ∧ s.run = .running ∧ s.service = .serving ∧ s.trace = [] ∧ s.sent = [] ∧
      (∀ e ∈ image, s.mem.read e.1.toNat = e.2) ∧
      (∀ a : Nat, (∀ e ∈ image, e.1.toNat ≠ a) → s.mem.read a = 0#32)

/-- `State.reset` is the launch of the default configuration with an empty image. The configuration's numbers are
PRESUMED (log entry 1), so the reset value 1000 of SP is too; 0 in PC, AC, X, Y and USER mode are the spec's (R129), and
-1 in IR is its decision D7. -/
def Obligations.ResetIsTheDefaultLaunch : Prop :=
  launch Config.standard [] = .next State.reset ∧
  State.reset.pc = 0 ∧ State.reset.sp = 1000 ∧ State.reset.ir = -1 ∧ State.reset.ac = 0 ∧ State.reset.x = 0 ∧
  State.reset.y = 0 ∧ State.reset.mode = .user ∧ State.reset.run = .running ∧ State.reset.service = .serving ∧
  State.reset.trace = [] ∧ State.reset.sent = [] ∧ ∀ a : Nat, State.reset.mem.read a = 0

/-- The invariant holds after every launch. -/
def Obligations.LaunchIsConsistent : Prop :=
  ∀ (c : Config) (image : Image) (s : State), launch c image = .next s → Consistent s

/-- The invariant holds at reset. -/
def Obligations.ResetIsConsistent : Prop :=
  Consistent State.reset

/-! ### The whole machine -/

/-- Every step keeps the invariant: canonical memory inside the Address Space, the two agents' statuses in agreement, no
event but those a rule emits, and Shutdown and TERMINATE just where the service was stopped. -/
def Obligations.StepKeepsConsistent : Prop :=
  ∀ (s t : State), Consistent s → step s = .next t → Consistent t

/-- A step only appends to the trace and to the requests sent, and never changes the configuration (R30, R6). The last
clause is about the model's own counter of draws (log entry 3, DESIGN CHOICE): it never falls. -/
def Obligations.StepOnlyAppends : Prop :=
  ∀ (s t : State), step s = .next t →
    t.cfg = s.cfg ∧ (∃ es, t.trace = s.trace ++ es) ∧ (∃ qs, t.sent = s.sent ++ qs) ∧ s.draws ≤ t.draws

/-- The Address Space after a step is the one before it with the step's WRITE requests applied in the order they were
sent: memory changes in response to a WRITE and to nothing else (R37, R53, R55). -/
def Obligations.MemoryIsReplayOfWrites : Prop :=
  ∀ (s t : State), step s = .next t →
    ∃ qs, t.sent = s.sent ++ qs ∧ t.mem = qs.foldl (applyRequest s.cfg) s.mem

/-- The mode changes only by Int from USER and by IRet from KERNEL (R24, R117). -/
def Obligations.ModeChangesOnlyBySystemCallAndReturn : Prop :=
  ∀ (s t : State), step s = .next t → t.mode ≠ s.mode →
    (s.mode = .user ∧ s.cfg.opcodeMap.classOf (s.mem.read s.pc.toNat) = some .int) ∨
    (s.mode = .kernel ∧ s.cfg.opcodeMap.classOf (s.mem.read s.pc.toNat) = some .iRet)

/-- A step from USER mode changes no cell of the system region, but for Int's two saves on the system stack (R44, R45,
R121). -/
def Obligations.UserStepLeavesSystemRegion : Prop :=
  ∀ (s t : State), s.mem.wf = true → s.mode = .user → step s = .next t →
    ∀ a : Nat, s.cfg.userLimit.toInt ≤ (a : Int) → t.mem.read a ≠ s.mem.read a →
      s.cfg.opcodeMap.classOf (s.mem.read s.pc.toNat) = some .int ∧
      (a = (s.cfg.sysStackTop - 1#32).toNat ∨ a = (s.cfg.sysStackTop - 2#32).toNat)

/-- A step from USER mode learns nothing of the system region: two states alike but for system cells step to two states
alike but for system cells (R44, R45). -/
def Obligations.UserStepLearnsNothingOfSystemRegion : Prop :=
  ∀ (s s' t : State), s.mem.wf = true → s'.mem.wf = true → s.mode = .user → SameForUser s s' →
    step s = .next t → ∃ t', step s' = .next t' ∧ SameForUser t t'

/-- `TIMER_THRESHOLD` has no effect: a machine with another threshold takes the same steps (R112). -/
def Obligations.TimerThresholdHasNoEffect : Prop :=
  ∀ (n : Option Nat) (s : State),
    (∀ t, step s = .next t → step (withTimer n s) = .next (withTimer n t)) ∧
    (∀ f, step s = .fault f → step (withTimer n s) = .fault f)

/-- USER execution over `n` zero cells slides one cell a step, emitting the anomaly of each cell and reading it, and ends
at `USER_LIMIT` with a privilege violation; beside that halt only PC, IR, the trace and the requests sent have changed
(R107). -/
def Obligations.UserSlideOverZeroCells : Prop :=
  ∀ (n : Nat) (s : State), s.run = .running → s.service = .serving → s.cfg.RegionsValid →
    s.cfg.opcodeMap.classOf 0#32 = none → s.mode = .user →
    0 ≤ s.pc.toInt → s.pc.toInt + n = s.cfg.userLimit.toInt →
    (∀ a : Nat, s.pc.toNat ≤ a → (a : Int) < s.cfg.userLimit.toInt → s.mem.read a = 0#32) →
    Sys2Proof.core.run (n + 1) s = .next
      { s with
        run := .halted (.privilegeViolation s.cfg.userLimit)
        service := .stopped
        pc := s.cfg.userLimit
        ir := if n = 0 then s.ir else 0#32
        trace := s.trace ++ slideAnomalies n s.pc ++ [.shutdown]
        sent := s.sent ++ slideReads n s.pc ++ [.terminate] }

/-- KERNEL execution over `n` zero cells slides to `TOTAL_SIZE`, emitting the anomaly of each cell and reading it, and
ends there with a protocol error, with no Shutdown and no TERMINATE; beside that halt only PC, IR, the trace and the
requests sent have changed (R107). -/
def Obligations.KernelSlideOverZeroCells : Prop :=
  ∀ (n : Nat) (s : State), s.run = .running → s.service = .serving → s.cfg.RegionsValid →
    s.cfg.opcodeMap.classOf 0#32 = none → s.mode = .kernel →
    0 ≤ s.pc.toInt → s.pc.toInt + n = s.cfg.totalSize.toInt →
    (∀ a : Nat, s.pc.toNat ≤ a → (a : Int) < s.cfg.totalSize.toInt → s.mem.read a = 0#32) →
    Sys2Proof.core.run (n + 1) s = .next
      { s with
        run := .halted (.protocolError (.addressOutOfRange s.cfg.totalSize))
        service := .failed (.addressOutOfRange s.cfg.totalSize)
        pc := s.cfg.totalSize
        ir := if n = 0 then s.ir else 0#32
        trace := s.trace ++ slideAnomalies n s.pc
        sent := s.sent ++ slideReads n s.pc ++ [.read s.cfg.totalSize] }
end

