-- ==== Sys2Proof/Laws/PerInstr.lean ====
section
/-! SUPPORT. The statements made per instruction: what each instruction's class and operand say of it. -/

namespace Sys2Proof.Laws

/-- An instruction is its class with its operand, its operand is there just when its class has one, and it is
well-formed: no operand bit is lost between `Instr.operand` and `Opcode.withOperand`. -/
def EncodingParts.Statement (i : Instr) : Prop :=
  i.opcode.withOperand (i.operand.getD 0) = i ∧ i.operand.isSome = i.opcode.hasOperand ∧ i.wellFormed = true

theorem EncodingParts.loadVal (v : Word) : EncodingParts.Statement (.loadVal v) :=
  ⟨rfl, rfl, rfl⟩

theorem EncodingParts.loadAddr (v : Word) : EncodingParts.Statement (.loadAddr v) :=
  ⟨rfl, rfl, rfl⟩

theorem EncodingParts.loadIndAddr (v : Word) : EncodingParts.Statement (.loadIndAddr v) :=
  ⟨rfl, rfl, rfl⟩

theorem EncodingParts.loadIdxXAddr (v : Word) : EncodingParts.Statement (.loadIdxXAddr v) :=
  ⟨rfl, rfl, rfl⟩

theorem EncodingParts.loadIdxYAddr (v : Word) : EncodingParts.Statement (.loadIdxYAddr v) :=
  ⟨rfl, rfl, rfl⟩

theorem EncodingParts.loadSpX : EncodingParts.Statement .loadSpX :=
  ⟨rfl, rfl, rfl⟩

theorem EncodingParts.storeAddr (v : Word) : EncodingParts.Statement (.storeAddr v) :=
  ⟨rfl, rfl, rfl⟩

theorem EncodingParts.get : EncodingParts.Statement .get :=
  ⟨rfl, rfl, rfl⟩

theorem EncodingParts.putPort (v : Word) : EncodingParts.Statement (.putPort v) :=
  ⟨rfl, rfl, rfl⟩

theorem EncodingParts.addX : EncodingParts.Statement .addX :=
  ⟨rfl, rfl, rfl⟩

theorem EncodingParts.addY : EncodingParts.Statement .addY :=
  ⟨rfl, rfl, rfl⟩

theorem EncodingParts.subX : EncodingParts.Statement .subX :=
  ⟨rfl, rfl, rfl⟩

theorem EncodingParts.subY : EncodingParts.Statement .subY :=
  ⟨rfl, rfl, rfl⟩

theorem EncodingParts.copyToX : EncodingParts.Statement .copyToX :=
  ⟨rfl, rfl, rfl⟩

theorem EncodingParts.copyFromX : EncodingParts.Statement .copyFromX :=
  ⟨rfl, rfl, rfl⟩

theorem EncodingParts.copyToY : EncodingParts.Statement .copyToY :=
  ⟨rfl, rfl, rfl⟩

theorem EncodingParts.copyFromY : EncodingParts.Statement .copyFromY :=
  ⟨rfl, rfl, rfl⟩

theorem EncodingParts.copyToSp : EncodingParts.Statement .copyToSp :=
  ⟨rfl, rfl, rfl⟩

theorem EncodingParts.copyFromSp : EncodingParts.Statement .copyFromSp :=
  ⟨rfl, rfl, rfl⟩

theorem EncodingParts.jumpAddr (v : Word) : EncodingParts.Statement (.jumpAddr v) :=
  ⟨rfl, rfl, rfl⟩

theorem EncodingParts.jumpIfEqual (v : Word) : EncodingParts.Statement (.jumpIfEqual v) :=
  ⟨rfl, rfl, rfl⟩

theorem EncodingParts.jumpIfNotEqual (v : Word) : EncodingParts.Statement (.jumpIfNotEqual v) :=
  ⟨rfl, rfl, rfl⟩

theorem EncodingParts.callAddr (v : Word) : EncodingParts.Statement (.callAddr v) :=
  ⟨rfl, rfl, rfl⟩

theorem EncodingParts.ret : EncodingParts.Statement .ret :=
  ⟨rfl, rfl, rfl⟩

theorem EncodingParts.incX : EncodingParts.Statement .incX :=
  ⟨rfl, rfl, rfl⟩

theorem EncodingParts.decX : EncodingParts.Statement .decX :=
  ⟨rfl, rfl, rfl⟩

theorem EncodingParts.push : EncodingParts.Statement .push :=
  ⟨rfl, rfl, rfl⟩

theorem EncodingParts.pop : EncodingParts.Statement .pop :=
  ⟨rfl, rfl, rfl⟩

theorem EncodingParts.int : EncodingParts.Statement .int :=
  ⟨rfl, rfl, rfl⟩

theorem EncodingParts.iRet : EncodingParts.Statement .iRet :=
  ⟨rfl, rfl, rfl⟩

theorem EncodingParts.endRun : EncodingParts.Statement .endRun :=
  ⟨rfl, rfl, rfl⟩

end Sys2Proof.Laws
end

