-- ==== Sys2Proof/Laws/Decode.lean ====
section
/-! SUPPORT. The opcode map as a partial inverse, and what the decoder answers. -/

namespace Sys2Proof

theorem Opcode.mem_all (c : Opcode) : c ∈ Opcode.all := by
  cases c <;> decide

/-- A class found for a word has that word as its number. -/
theorem OpcodeMap.numberOf_of_classOf {m : OpcodeMap} {w : Word} {c : Opcode} (h : m.classOf w = some c) :
    m.numberOf c = w := by
  simpa using List.find?_some h

/-- Under an injective map the number of a class selects that class (R65: "Each number selects exactly one class"). -/
theorem OpcodeMap.classOf_numberOf {m : OpcodeMap} (h : (Opcode.all.map m.numberOf).Nodup) (c : Opcode) :
    m.classOf (m.numberOf c) = some c := by
  have hfound : (m.classOf (m.numberOf c)).isSome := by
    unfold OpcodeMap.classOf
    rw [List.find?_isSome]
    exact ⟨c, c.mem_all, by simp⟩
  obtain ⟨d, hd⟩ := Option.isSome_iff_exists.1 hfound
  rw [hd, List.inj_on_of_nodup_map h d.mem_all c.mem_all (OpcodeMap.numberOf_of_classOf hd)]

/-- A word is malformed just when it is no class's number (R66). -/
theorem OpcodeMap.classOf_eq_none {m : OpcodeMap} {w : Word} : m.classOf w = none ↔ ∀ c, m.numberOf c ≠ w := by
  unfold OpcodeMap.classOf
  rw [List.find?_eq_none]
  exact ⟨fun h c => by simpa using h c c.mem_all, fun h c _ => by simpa using h c⟩

@[simp] theorem Opcode.opcode_withOperand (c : Opcode) (v : Word) : (c.withOperand v).opcode = c := by
  cases c <;> rfl

/-- The operand that a class's instruction holds. -/
theorem Opcode.operand_withOperand (c : Opcode) (v : Word) :
    (c.withOperand v).operand = if c.hasOperand then some v else none := by
  cases c <;> rfl

/-- What the decoder answers, by the first cell. -/
theorem decode_cases {m : OpcodeMap} {cells rest : List Word} {i : Instr} (h : decode m cells = .ok (i, rest)) :
    ∃ w c, m.classOf w = some c ∧
      ((c.hasOperand = true ∧ ∃ v, cells = w :: v :: rest ∧ i = c.withOperand v) ∨
        (c.hasOperand = false ∧ cells = w :: rest ∧ i = c.withOperand 0)) := by
  cases cells with
  | nil => cases h
  | cons w cells =>
    simp only [decode] at h
    split at h
    · cases h
    · rename_i c hc
      refine ⟨w, c, hc, ?_⟩
      split at h
      · rename_i ho
        split at h
        · cases h
        · rename_i v rest'
          cases h
          exact .inl ⟨ho, v, rfl, rfl⟩
      · rename_i ho
        cases h
        exact .inr ⟨by simpa using ho, rfl, rfl⟩

end Sys2Proof
end

