-- ==== Sys2Proof/Laws/Memory.lean ====
section
/-! SUPPORT. The laws of the Address Space: read after write, the canonical form, equality of equal contents. -/

namespace Sys2Proof.Machine

variable {m : Memory} {lo a b : Nat} {v w : Word}

@[simp] theorem Memory.read_nil (a : Nat) : Memory.read [] a = Memory.blank := rfl

@[simp] theorem Memory.read_cons (b : Nat) (w : Word) (m : Memory) (a : Nat) :
    Memory.read ((b, w) :: m) a = if a = b then w else Memory.read m a := rfl

@[simp] theorem Memory.wfFrom_nil (lo : Nat) : Memory.wfFrom lo [] = true := rfl

@[simp] theorem Memory.wfFrom_cons (lo a : Nat) (v : Word) (m : Memory) :
    Memory.wfFrom lo ((a, v) :: m) = true ↔ lo ≤ a ∧ v ≠ Memory.blank ∧ Memory.wfFrom (a + 1) m = true := by
  simp [Memory.wfFrom, and_assoc]

/-- A lower bound of the addresses may be lowered. -/
theorem Memory.wfFrom_mono {lo' : Nat} (h : Memory.wfFrom lo m = true) (hle : lo' ≤ lo) :
    Memory.wfFrom lo' m = true := by
  cases m with
  | nil => rfl
  | cons e m =>
    obtain ⟨a, v⟩ := e
    rw [Memory.wfFrom_cons] at h ⊢
    exact ⟨by omega, h.2⟩

/-- Below the bound every cell is blank. -/
theorem Memory.read_below (h : Memory.wfFrom lo m = true) (hlt : a < lo) : Memory.read m a = Memory.blank := by
  induction m generalizing lo with
  | nil => rfl
  | cons e m ih =>
    obtain ⟨b, w⟩ := e
    rw [Memory.wfFrom_cons] at h
    rw [Memory.read_cons, if_neg (by omega)]
    exact ih h.2.2 (by omega)

theorem Memory.read_prepend (h : Memory.wfFrom (a + 1) m = true) (b : Nat) :
    Memory.read (Memory.prepend a v m) b = if b = a then v else Memory.read m b := by
  unfold Memory.prepend
  split
  · rename_i hv
    split
    · rename_i hb
      rw [hb, hv]
      exact Memory.read_below h (by omega)
    · rfl
  · rfl

theorem Memory.wfFrom_prepend (h : Memory.wfFrom (a + 1) m = true) (hlo : lo ≤ a) :
    Memory.wfFrom lo (Memory.prepend a v m) = true := by
  unfold Memory.prepend
  split
  · exact Memory.wfFrom_mono h (by omega)
  · rename_i hv
    exact (Memory.wfFrom_cons ..).2 ⟨hlo, hv, h⟩

/-- A write keeps the canonical form. -/
theorem Memory.wfFrom_write (h : Memory.wfFrom lo m = true) (hlo : lo ≤ a) :
    Memory.wfFrom lo (Memory.write m a v) = true := by
  induction m generalizing lo with
  | nil => exact Memory.wfFrom_prepend rfl hlo
  | cons e m ih =>
    obtain ⟨b, w⟩ := e
    rw [Memory.wfFrom_cons] at h
    unfold Memory.write
    split
    · exact Memory.wfFrom_prepend ((Memory.wfFrom_cons ..).2 ⟨by omega, h.2⟩) hlo
    · split
      · rename_i hab
        exact Memory.wfFrom_prepend (hab ▸ h.2.2) hlo
      · exact (Memory.wfFrom_cons ..).2 ⟨h.1, h.2.1, ih h.2.2 (by omega)⟩

theorem Memory.write_keeps_wf (h : m.wf = true) : (m.write a v).wf = true :=
  Memory.wfFrom_write h (Nat.zero_le a)

/-- Every cell after a write: the written one holds the word, every other one what it held. -/
theorem Memory.read_write_from (h : Memory.wfFrom lo m = true) (b : Nat) :
    Memory.read (Memory.write m a v) b = if b = a then v else Memory.read m b := by
  induction m generalizing lo with
  | nil => exact Memory.read_prepend rfl b
  | cons e m ih =>
    obtain ⟨c, w⟩ := e
    rw [Memory.wfFrom_cons] at h
    unfold Memory.write
    split
    · exact Memory.read_prepend ((Memory.wfFrom_cons ..).2 ⟨by omega, h.2⟩) b
    · split
      · rename_i hac
        subst hac
        rw [Memory.read_prepend h.2.2, Memory.read_cons]
        split <;> rfl
      · rw [Memory.read_cons, Memory.read_cons, ih h.2.2]
        split
        · rename_i hbc
          rw [if_neg (by omega)]
        · rfl

theorem Memory.read_write (h : m.wf = true) (a b : Nat) (v : Word) :
    (m.write a v).read b = if b = a then v else m.read b :=
  Memory.read_write_from h b

theorem Memory.read_write_same (h : m.wf = true) (a : Nat) (v : Word) : (m.write a v).read a = v := by
  rw [Memory.read_write h, if_pos rfl]

theorem Memory.read_write_other (h : m.wf = true) (hne : b ≠ a) : (m.write a v).read b = m.read b := by
  rw [Memory.read_write h, if_neg hne]

/-- A write lists no address but the old ones and the written one. -/
theorem Memory.mem_write {e : Nat × Word} (h : e ∈ m.write a v) : e ∈ m ∨ e = (a, v) := by
  have hp : ∀ {m : Memory}, e ∈ Memory.prepend a v m → e ∈ m ∨ e = (a, v) := by
    intro m h
    unfold Memory.prepend at h
    split at h
    · exact .inl h
    · exact (List.mem_cons.1 h).symm
  induction m with
  | nil => exact hp h
  | cons d m ih =>
    obtain ⟨c, w⟩ := d
    unfold Memory.write at h
    split at h
    · exact hp h
    · split at h
      · exact (hp h).imp_left (List.mem_cons_of_mem _)
      · rcases List.mem_cons.1 h with h | h
        · exact .inl (h ▸ List.mem_cons_self)
        · exact (ih h).imp_left (List.mem_cons_of_mem _)

/-- Two memories in canonical form with the same contents are the same list. -/
theorem Memory.ext_from {m' : Memory} {lo : Nat} (h : Memory.wfFrom lo m = true) (h' : Memory.wfFrom lo m' = true)
    (heq : ∀ a, m.read a = m'.read a) : m = m' := by
  induction m generalizing lo m' with
  | nil =>
    cases m' with
    | nil => rfl
    | cons e m' =>
      obtain ⟨b, w⟩ := e
      have := heq b
      simp only [Memory.read_nil, Memory.read_cons, if_true] at this
      exact absurd this.symm ((Memory.wfFrom_cons ..).1 h').2.1
  | cons e m ih =>
    obtain ⟨a, v⟩ := e
    have hm := (Memory.wfFrom_cons ..).1 h
    cases m' with
    | nil =>
      have := heq a
      simp only [Memory.read_nil, Memory.read_cons, if_true] at this
      exact absurd this hm.2.1
    | cons e' m' =>
      obtain ⟨b, w⟩ := e'
      have hm' := (Memory.wfFrom_cons ..).1 h'
      have hab : a = b := by
        rcases Nat.lt_trichotomy a b with hlt | heq' | hlt
        · have := heq a
          rw [Memory.read_cons, if_pos rfl, Memory.read_below (lo := b) ((Memory.wfFrom_cons ..).2 ⟨le_refl b, hm'.2⟩) hlt] at this
          exact absurd this hm.2.1
        · exact heq'
        · have := heq b
          rw [Memory.read_cons (b := b), if_pos rfl,
            Memory.read_below (lo := a) ((Memory.wfFrom_cons ..).2 ⟨le_refl a, hm.2⟩) hlt] at this
          exact absurd this.symm hm'.2.1
      subst hab
      have hv : v = w := by simpa using heq a
      subst hv
      congr 1
      refine ih hm.2.2 hm'.2.2 fun c => ?_
      rcases Nat.lt_or_ge a c with hlt | hge
      · have := heq c
        rwa [Memory.read_cons, Memory.read_cons, if_neg (by omega), if_neg (by omega)] at this
      · rw [Memory.read_below hm.2.2 (by omega), Memory.read_below hm'.2.2 (by omega)]

theorem Memory.ext {m' : Memory} (h : m.wf = true) (h' : m'.wf = true) (heq : ∀ a, m.read a = m'.read a) : m = m' :=
  Memory.ext_from h h' heq

end Sys2Proof.Machine
end

