-- ==== Sys2Proof/Laws/State.lean ====
section
/-! SUPPORT. Every field of the state after every named update (Machine/Ops.lean): one lemma per field per update. -/

namespace Sys2Proof.Machine

/-! ### `State.setPc` -/

@[simp] theorem State.setPc_cfg (s : State) (v : Word) : (s.setPc v).cfg = s.cfg := rfl
@[simp] theorem State.setPc_pc (s : State) (v : Word) : (s.setPc v).pc = v := rfl
@[simp] theorem State.setPc_sp (s : State) (v : Word) : (s.setPc v).sp = s.sp := rfl
@[simp] theorem State.setPc_ir (s : State) (v : Word) : (s.setPc v).ir = s.ir := rfl
@[simp] theorem State.setPc_ac (s : State) (v : Word) : (s.setPc v).ac = s.ac := rfl
@[simp] theorem State.setPc_x (s : State) (v : Word) : (s.setPc v).x = s.x := rfl
@[simp] theorem State.setPc_y (s : State) (v : Word) : (s.setPc v).y = s.y := rfl
@[simp] theorem State.setPc_mode (s : State) (v : Word) : (s.setPc v).mode = s.mode := rfl
@[simp] theorem State.setPc_run (s : State) (v : Word) : (s.setPc v).run = s.run := rfl
@[simp] theorem State.setPc_mem (s : State) (v : Word) : (s.setPc v).mem = s.mem := rfl
@[simp] theorem State.setPc_service (s : State) (v : Word) : (s.setPc v).service = s.service := rfl
@[simp] theorem State.setPc_trace (s : State) (v : Word) : (s.setPc v).trace = s.trace := rfl
@[simp] theorem State.setPc_sent (s : State) (v : Word) : (s.setPc v).sent = s.sent := rfl
@[simp] theorem State.setPc_draws (s : State) (v : Word) : (s.setPc v).draws = s.draws := rfl

/-! ### `State.setSp` -/

@[simp] theorem State.setSp_cfg (s : State) (v : Word) : (s.setSp v).cfg = s.cfg := rfl
@[simp] theorem State.setSp_pc (s : State) (v : Word) : (s.setSp v).pc = s.pc := rfl
@[simp] theorem State.setSp_sp (s : State) (v : Word) : (s.setSp v).sp = v := rfl
@[simp] theorem State.setSp_ir (s : State) (v : Word) : (s.setSp v).ir = s.ir := rfl
@[simp] theorem State.setSp_ac (s : State) (v : Word) : (s.setSp v).ac = s.ac := rfl
@[simp] theorem State.setSp_x (s : State) (v : Word) : (s.setSp v).x = s.x := rfl
@[simp] theorem State.setSp_y (s : State) (v : Word) : (s.setSp v).y = s.y := rfl
@[simp] theorem State.setSp_mode (s : State) (v : Word) : (s.setSp v).mode = s.mode := rfl
@[simp] theorem State.setSp_run (s : State) (v : Word) : (s.setSp v).run = s.run := rfl
@[simp] theorem State.setSp_mem (s : State) (v : Word) : (s.setSp v).mem = s.mem := rfl
@[simp] theorem State.setSp_service (s : State) (v : Word) : (s.setSp v).service = s.service := rfl
@[simp] theorem State.setSp_trace (s : State) (v : Word) : (s.setSp v).trace = s.trace := rfl
@[simp] theorem State.setSp_sent (s : State) (v : Word) : (s.setSp v).sent = s.sent := rfl
@[simp] theorem State.setSp_draws (s : State) (v : Word) : (s.setSp v).draws = s.draws := rfl

/-! ### `State.setIr` -/

@[simp] theorem State.setIr_cfg (s : State) (v : Word) : (s.setIr v).cfg = s.cfg := rfl
@[simp] theorem State.setIr_pc (s : State) (v : Word) : (s.setIr v).pc = s.pc := rfl
@[simp] theorem State.setIr_sp (s : State) (v : Word) : (s.setIr v).sp = s.sp := rfl
@[simp] theorem State.setIr_ir (s : State) (v : Word) : (s.setIr v).ir = v := rfl
@[simp] theorem State.setIr_ac (s : State) (v : Word) : (s.setIr v).ac = s.ac := rfl
@[simp] theorem State.setIr_x (s : State) (v : Word) : (s.setIr v).x = s.x := rfl
@[simp] theorem State.setIr_y (s : State) (v : Word) : (s.setIr v).y = s.y := rfl
@[simp] theorem State.setIr_mode (s : State) (v : Word) : (s.setIr v).mode = s.mode := rfl
@[simp] theorem State.setIr_run (s : State) (v : Word) : (s.setIr v).run = s.run := rfl
@[simp] theorem State.setIr_mem (s : State) (v : Word) : (s.setIr v).mem = s.mem := rfl
@[simp] theorem State.setIr_service (s : State) (v : Word) : (s.setIr v).service = s.service := rfl
@[simp] theorem State.setIr_trace (s : State) (v : Word) : (s.setIr v).trace = s.trace := rfl
@[simp] theorem State.setIr_sent (s : State) (v : Word) : (s.setIr v).sent = s.sent := rfl
@[simp] theorem State.setIr_draws (s : State) (v : Word) : (s.setIr v).draws = s.draws := rfl

/-! ### `State.setAc` -/

@[simp] theorem State.setAc_cfg (s : State) (v : Word) : (s.setAc v).cfg = s.cfg := rfl
@[simp] theorem State.setAc_pc (s : State) (v : Word) : (s.setAc v).pc = s.pc := rfl
@[simp] theorem State.setAc_sp (s : State) (v : Word) : (s.setAc v).sp = s.sp := rfl
@[simp] theorem State.setAc_ir (s : State) (v : Word) : (s.setAc v).ir = s.ir := rfl
@[simp] theorem State.setAc_ac (s : State) (v : Word) : (s.setAc v).ac = v := rfl
@[simp] theorem State.setAc_x (s : State) (v : Word) : (s.setAc v).x = s.x := rfl
@[simp] theorem State.setAc_y (s : State) (v : Word) : (s.setAc v).y = s.y := rfl
@[simp] theorem State.setAc_mode (s : State) (v : Word) : (s.setAc v).mode = s.mode := rfl
@[simp] theorem State.setAc_run (s : State) (v : Word) : (s.setAc v).run = s.run := rfl
@[simp] theorem State.setAc_mem (s : State) (v : Word) : (s.setAc v).mem = s.mem := rfl
@[simp] theorem State.setAc_service (s : State) (v : Word) : (s.setAc v).service = s.service := rfl
@[simp] theorem State.setAc_trace (s : State) (v : Word) : (s.setAc v).trace = s.trace := rfl
@[simp] theorem State.setAc_sent (s : State) (v : Word) : (s.setAc v).sent = s.sent := rfl
@[simp] theorem State.setAc_draws (s : State) (v : Word) : (s.setAc v).draws = s.draws := rfl

/-! ### `State.setX` -/

@[simp] theorem State.setX_cfg (s : State) (v : Word) : (s.setX v).cfg = s.cfg := rfl
@[simp] theorem State.setX_pc (s : State) (v : Word) : (s.setX v).pc = s.pc := rfl
@[simp] theorem State.setX_sp (s : State) (v : Word) : (s.setX v).sp = s.sp := rfl
@[simp] theorem State.setX_ir (s : State) (v : Word) : (s.setX v).ir = s.ir := rfl
@[simp] theorem State.setX_ac (s : State) (v : Word) : (s.setX v).ac = s.ac := rfl
@[simp] theorem State.setX_x (s : State) (v : Word) : (s.setX v).x = v := rfl
@[simp] theorem State.setX_y (s : State) (v : Word) : (s.setX v).y = s.y := rfl
@[simp] theorem State.setX_mode (s : State) (v : Word) : (s.setX v).mode = s.mode := rfl
@[simp] theorem State.setX_run (s : State) (v : Word) : (s.setX v).run = s.run := rfl
@[simp] theorem State.setX_mem (s : State) (v : Word) : (s.setX v).mem = s.mem := rfl
@[simp] theorem State.setX_service (s : State) (v : Word) : (s.setX v).service = s.service := rfl
@[simp] theorem State.setX_trace (s : State) (v : Word) : (s.setX v).trace = s.trace := rfl
@[simp] theorem State.setX_sent (s : State) (v : Word) : (s.setX v).sent = s.sent := rfl
@[simp] theorem State.setX_draws (s : State) (v : Word) : (s.setX v).draws = s.draws := rfl

/-! ### `State.setY` -/

@[simp] theorem State.setY_cfg (s : State) (v : Word) : (s.setY v).cfg = s.cfg := rfl
@[simp] theorem State.setY_pc (s : State) (v : Word) : (s.setY v).pc = s.pc := rfl
@[simp] theorem State.setY_sp (s : State) (v : Word) : (s.setY v).sp = s.sp := rfl
@[simp] theorem State.setY_ir (s : State) (v : Word) : (s.setY v).ir = s.ir := rfl
@[simp] theorem State.setY_ac (s : State) (v : Word) : (s.setY v).ac = s.ac := rfl
@[simp] theorem State.setY_x (s : State) (v : Word) : (s.setY v).x = s.x := rfl
@[simp] theorem State.setY_y (s : State) (v : Word) : (s.setY v).y = v := rfl
@[simp] theorem State.setY_mode (s : State) (v : Word) : (s.setY v).mode = s.mode := rfl
@[simp] theorem State.setY_run (s : State) (v : Word) : (s.setY v).run = s.run := rfl
@[simp] theorem State.setY_mem (s : State) (v : Word) : (s.setY v).mem = s.mem := rfl
@[simp] theorem State.setY_service (s : State) (v : Word) : (s.setY v).service = s.service := rfl
@[simp] theorem State.setY_trace (s : State) (v : Word) : (s.setY v).trace = s.trace := rfl
@[simp] theorem State.setY_sent (s : State) (v : Word) : (s.setY v).sent = s.sent := rfl
@[simp] theorem State.setY_draws (s : State) (v : Word) : (s.setY v).draws = s.draws := rfl

/-! ### `State.setMode` -/

@[simp] theorem State.setMode_cfg (s : State) (m : Mode) : (s.setMode m).cfg = s.cfg := rfl
@[simp] theorem State.setMode_pc (s : State) (m : Mode) : (s.setMode m).pc = s.pc := rfl
@[simp] theorem State.setMode_sp (s : State) (m : Mode) : (s.setMode m).sp = s.sp := rfl
@[simp] theorem State.setMode_ir (s : State) (m : Mode) : (s.setMode m).ir = s.ir := rfl
@[simp] theorem State.setMode_ac (s : State) (m : Mode) : (s.setMode m).ac = s.ac := rfl
@[simp] theorem State.setMode_x (s : State) (m : Mode) : (s.setMode m).x = s.x := rfl
@[simp] theorem State.setMode_y (s : State) (m : Mode) : (s.setMode m).y = s.y := rfl
@[simp] theorem State.setMode_mode (s : State) (m : Mode) : (s.setMode m).mode = m := rfl
@[simp] theorem State.setMode_run (s : State) (m : Mode) : (s.setMode m).run = s.run := rfl
@[simp] theorem State.setMode_mem (s : State) (m : Mode) : (s.setMode m).mem = s.mem := rfl
@[simp] theorem State.setMode_service (s : State) (m : Mode) : (s.setMode m).service = s.service := rfl
@[simp] theorem State.setMode_trace (s : State) (m : Mode) : (s.setMode m).trace = s.trace := rfl
@[simp] theorem State.setMode_sent (s : State) (m : Mode) : (s.setMode m).sent = s.sent := rfl
@[simp] theorem State.setMode_draws (s : State) (m : Mode) : (s.setMode m).draws = s.draws := rfl

/-! ### `State.setMem` -/

@[simp] theorem State.setMem_cfg (s : State) (m : Memory) : (s.setMem m).cfg = s.cfg := rfl
@[simp] theorem State.setMem_pc (s : State) (m : Memory) : (s.setMem m).pc = s.pc := rfl
@[simp] theorem State.setMem_sp (s : State) (m : Memory) : (s.setMem m).sp = s.sp := rfl
@[simp] theorem State.setMem_ir (s : State) (m : Memory) : (s.setMem m).ir = s.ir := rfl
@[simp] theorem State.setMem_ac (s : State) (m : Memory) : (s.setMem m).ac = s.ac := rfl
@[simp] theorem State.setMem_x (s : State) (m : Memory) : (s.setMem m).x = s.x := rfl
@[simp] theorem State.setMem_y (s : State) (m : Memory) : (s.setMem m).y = s.y := rfl
@[simp] theorem State.setMem_mode (s : State) (m : Memory) : (s.setMem m).mode = s.mode := rfl
@[simp] theorem State.setMem_run (s : State) (m : Memory) : (s.setMem m).run = s.run := rfl
@[simp] theorem State.setMem_mem (s : State) (m : Memory) : (s.setMem m).mem = m := rfl
@[simp] theorem State.setMem_service (s : State) (m : Memory) : (s.setMem m).service = s.service := rfl
@[simp] theorem State.setMem_trace (s : State) (m : Memory) : (s.setMem m).trace = s.trace := rfl
@[simp] theorem State.setMem_sent (s : State) (m : Memory) : (s.setMem m).sent = s.sent := rfl
@[simp] theorem State.setMem_draws (s : State) (m : Memory) : (s.setMem m).draws = s.draws := rfl

/-! ### `State.setService` -/

@[simp] theorem State.setService_cfg (s : State) (st : ServiceStatus) : (s.setService st).cfg = s.cfg := rfl
@[simp] theorem State.setService_pc (s : State) (st : ServiceStatus) : (s.setService st).pc = s.pc := rfl
@[simp] theorem State.setService_sp (s : State) (st : ServiceStatus) : (s.setService st).sp = s.sp := rfl
@[simp] theorem State.setService_ir (s : State) (st : ServiceStatus) : (s.setService st).ir = s.ir := rfl
@[simp] theorem State.setService_ac (s : State) (st : ServiceStatus) : (s.setService st).ac = s.ac := rfl
@[simp] theorem State.setService_x (s : State) (st : ServiceStatus) : (s.setService st).x = s.x := rfl
@[simp] theorem State.setService_y (s : State) (st : ServiceStatus) : (s.setService st).y = s.y := rfl
@[simp] theorem State.setService_mode (s : State) (st : ServiceStatus) : (s.setService st).mode = s.mode := rfl
@[simp] theorem State.setService_run (s : State) (st : ServiceStatus) : (s.setService st).run = s.run := rfl
@[simp] theorem State.setService_mem (s : State) (st : ServiceStatus) : (s.setService st).mem = s.mem := rfl
@[simp] theorem State.setService_service (s : State) (st : ServiceStatus) : (s.setService st).service = st := rfl
@[simp] theorem State.setService_trace (s : State) (st : ServiceStatus) : (s.setService st).trace = s.trace := rfl
@[simp] theorem State.setService_sent (s : State) (st : ServiceStatus) : (s.setService st).sent = s.sent := rfl
@[simp] theorem State.setService_draws (s : State) (st : ServiceStatus) : (s.setService st).draws = s.draws := rfl

/-! ### `State.setRun` -/

@[simp] theorem State.setRun_cfg (s : State) (r : RunStatus) : (s.setRun r).cfg = s.cfg := rfl
@[simp] theorem State.setRun_pc (s : State) (r : RunStatus) : (s.setRun r).pc = s.pc := rfl
@[simp] theorem State.setRun_sp (s : State) (r : RunStatus) : (s.setRun r).sp = s.sp := rfl
@[simp] theorem State.setRun_ir (s : State) (r : RunStatus) : (s.setRun r).ir = s.ir := rfl
@[simp] theorem State.setRun_ac (s : State) (r : RunStatus) : (s.setRun r).ac = s.ac := rfl
@[simp] theorem State.setRun_x (s : State) (r : RunStatus) : (s.setRun r).x = s.x := rfl
@[simp] theorem State.setRun_y (s : State) (r : RunStatus) : (s.setRun r).y = s.y := rfl
@[simp] theorem State.setRun_mode (s : State) (r : RunStatus) : (s.setRun r).mode = s.mode := rfl
@[simp] theorem State.setRun_run (s : State) (r : RunStatus) : (s.setRun r).run = r := rfl
@[simp] theorem State.setRun_mem (s : State) (r : RunStatus) : (s.setRun r).mem = s.mem := rfl
@[simp] theorem State.setRun_service (s : State) (r : RunStatus) : (s.setRun r).service = s.service := rfl
@[simp] theorem State.setRun_trace (s : State) (r : RunStatus) : (s.setRun r).trace = s.trace := rfl
@[simp] theorem State.setRun_sent (s : State) (r : RunStatus) : (s.setRun r).sent = s.sent := rfl
@[simp] theorem State.setRun_draws (s : State) (r : RunStatus) : (s.setRun r).draws = s.draws := rfl

/-! ### `State.emit` -/

@[simp] theorem State.emit_cfg (s : State) (e : Event) : (s.emit e).cfg = s.cfg := rfl
@[simp] theorem State.emit_pc (s : State) (e : Event) : (s.emit e).pc = s.pc := rfl
@[simp] theorem State.emit_sp (s : State) (e : Event) : (s.emit e).sp = s.sp := rfl
@[simp] theorem State.emit_ir (s : State) (e : Event) : (s.emit e).ir = s.ir := rfl
@[simp] theorem State.emit_ac (s : State) (e : Event) : (s.emit e).ac = s.ac := rfl
@[simp] theorem State.emit_x (s : State) (e : Event) : (s.emit e).x = s.x := rfl
@[simp] theorem State.emit_y (s : State) (e : Event) : (s.emit e).y = s.y := rfl
@[simp] theorem State.emit_mode (s : State) (e : Event) : (s.emit e).mode = s.mode := rfl
@[simp] theorem State.emit_run (s : State) (e : Event) : (s.emit e).run = s.run := rfl
@[simp] theorem State.emit_mem (s : State) (e : Event) : (s.emit e).mem = s.mem := rfl
@[simp] theorem State.emit_service (s : State) (e : Event) : (s.emit e).service = s.service := rfl
@[simp] theorem State.emit_trace (s : State) (e : Event) : (s.emit e).trace = s.trace ++ [e] := rfl
@[simp] theorem State.emit_sent (s : State) (e : Event) : (s.emit e).sent = s.sent := rfl
@[simp] theorem State.emit_draws (s : State) (e : Event) : (s.emit e).draws = s.draws := rfl

/-! ### `State.record` -/

@[simp] theorem State.record_cfg (s : State) (q : Request) : (s.record q).cfg = s.cfg := rfl
@[simp] theorem State.record_pc (s : State) (q : Request) : (s.record q).pc = s.pc := rfl
@[simp] theorem State.record_sp (s : State) (q : Request) : (s.record q).sp = s.sp := rfl
@[simp] theorem State.record_ir (s : State) (q : Request) : (s.record q).ir = s.ir := rfl
@[simp] theorem State.record_ac (s : State) (q : Request) : (s.record q).ac = s.ac := rfl
@[simp] theorem State.record_x (s : State) (q : Request) : (s.record q).x = s.x := rfl
@[simp] theorem State.record_y (s : State) (q : Request) : (s.record q).y = s.y := rfl
@[simp] theorem State.record_mode (s : State) (q : Request) : (s.record q).mode = s.mode := rfl
@[simp] theorem State.record_run (s : State) (q : Request) : (s.record q).run = s.run := rfl
@[simp] theorem State.record_mem (s : State) (q : Request) : (s.record q).mem = s.mem := rfl
@[simp] theorem State.record_service (s : State) (q : Request) : (s.record q).service = s.service := rfl
@[simp] theorem State.record_trace (s : State) (q : Request) : (s.record q).trace = s.trace := rfl
@[simp] theorem State.record_sent (s : State) (q : Request) : (s.record q).sent = s.sent ++ [q] := rfl
@[simp] theorem State.record_draws (s : State) (q : Request) : (s.record q).draws = s.draws := rfl

/-! ### `State.countDraw` -/

@[simp] theorem State.countDraw_cfg (s : State) : s.countDraw.cfg = s.cfg := rfl
@[simp] theorem State.countDraw_pc (s : State) : s.countDraw.pc = s.pc := rfl
@[simp] theorem State.countDraw_sp (s : State) : s.countDraw.sp = s.sp := rfl
@[simp] theorem State.countDraw_ir (s : State) : s.countDraw.ir = s.ir := rfl
@[simp] theorem State.countDraw_ac (s : State) : s.countDraw.ac = s.ac := rfl
@[simp] theorem State.countDraw_x (s : State) : s.countDraw.x = s.x := rfl
@[simp] theorem State.countDraw_y (s : State) : s.countDraw.y = s.y := rfl
@[simp] theorem State.countDraw_mode (s : State) : s.countDraw.mode = s.mode := rfl
@[simp] theorem State.countDraw_run (s : State) : s.countDraw.run = s.run := rfl
@[simp] theorem State.countDraw_mem (s : State) : s.countDraw.mem = s.mem := rfl
@[simp] theorem State.countDraw_service (s : State) : s.countDraw.service = s.service := rfl
@[simp] theorem State.countDraw_trace (s : State) : s.countDraw.trace = s.trace := rfl
@[simp] theorem State.countDraw_sent (s : State) : s.countDraw.sent = s.sent := rfl
@[simp] theorem State.countDraw_draws (s : State) : s.countDraw.draws = s.draws + 1 := rfl

end Sys2Proof.Machine
end

