-- ==== Sys2Proof/Laws/Launch.lean ====
section
/-! SUPPORT. What writing the launch image does, and what placing cells does. -/

namespace Sys2Proof.Machine

variable {m : Memory} {c : Config} {image : Image} {s : State}

theorem firstOutside_eq_none :
    image.firstOutside c = none ↔ ∀ e ∈ image, 0 ≤ e.1.toInt ∧ e.1.toInt < c.totalSize.toInt := by
  simp [Image.firstOutside, List.find?_eq_none]

/-- The entry that a refusal names is in the image and lies outside (R46). -/
theorem firstOutside_eq_some {e : Word × Word} (h : image.firstOutside c = some e) :
    e ∈ image ∧ (e.1.toInt < 0 ∨ c.totalSize.toInt ≤ e.1.toInt) := by
  refine ⟨List.mem_of_find?_eq_some h, ?_⟩
  have h := List.find?_some h
  simp only [Bool.not_eq_true', Bool.and_eq_false_iff, decide_eq_false_iff_not] at h
  omega

theorem foldl_loadEntry_wf (h : m.wf = true) : (image.foldl loadEntry m).wf = true := by
  induction image generalizing m with
  | nil => exact h
  | cons e rest ih => exact ih (Memory.write_keeps_wf h)

/-- A cell that no entry names keeps its word. -/
theorem foldl_loadEntry_other (h : m.wf = true) (a : Nat) (hne : ∀ e ∈ image, e.1.toNat ≠ a) :
    (image.foldl loadEntry m).read a = m.read a := by
  induction image generalizing m with
  | nil => rfl
  | cons e rest ih =>
    rw [List.foldl_cons, ih (m := loadEntry m e) (Memory.write_keeps_wf h) fun d hd => hne d (List.mem_cons_of_mem e hd)]
    exact Memory.read_write_other h (hne e List.mem_cons_self).symm

/-- No address is listed but the old ones and the entries'. -/
theorem foldl_loadEntry_mem {d : Nat × Word} (h : d ∈ image.foldl loadEntry m) :
    d ∈ m ∨ ∃ e ∈ image, d.1 = e.1.toNat := by
  induction image generalizing m with
  | nil => exact .inl h
  | cons e rest ih =>
    rcases ih h with h | ⟨e', he', h⟩
    · exact (Memory.mem_write h).imp id fun h => ⟨e, List.mem_cons_self, by rw [h]⟩
    · exact .inr ⟨e', List.mem_cons_of_mem e he', h⟩

/-- Placing cells changes the Address Space and nothing else. -/
theorem placeCells_eq (cells : List Word) (a : Word) (s : State) :
    placeCells cells a s = { s with mem := (placeCells cells a s).mem } := by
  induction cells generalizing a s with
  | nil => rfl
  | cons w rest ih =>
    rw [placeCells, ih]
    split <;> rfl

theorem placeCells_wf (cells : List Word) (a : Word) (h : s.mem.wf = true) :
    (placeCells cells a s).mem.wf = true := by
  induction cells generalizing a s with
  | nil => exact h
  | cons w rest ih =>
    refine ih _ ?_
    split
    · exact Memory.write_keeps_wf h
    · exact h

/-- The state after reset lists no cell, so its memory is in canonical form. -/
theorem reset_mem_wf : State.reset.mem.wf = true := rfl

end Sys2Proof.Machine
end

