-- ==== Sys2Proof/Laws/Ops.lean ====
section
/-! SUPPORT. For each shared operation, what it does: an equation for each case of the access it makes, and one lemma
that lists all its cases. -/

namespace Sys2Proof.Machine

variable {s t : State} {a v w : Word} {α β : Type}

/-! ### Sequencing -/

@[simp] theorem Eng.bind_ok (v : α) (s : State) (f : α → State → Eng β) : (Eng.ok v s).bind f = f v s := rfl
@[simp] theorem Eng.bind_halt (s : State) (f : α → State → Eng β) : (Eng.halt s : Eng α).bind f = .halt s := rfl
@[simp] theorem Eng.finish_ok (u : Unit) (s : State) : (Eng.ok u s).finish = .next s := rfl
@[simp] theorem Eng.finish_halt (s : State) : (Eng.halt s).finish = .next s := rfl

/-- Statements in sequence complete just when each of them does. -/
theorem Eng.bind_eq_ok {e : Eng α} {f : α → State → Eng β} {w : β} (h : e.bind f = .ok w t) :
    ∃ v s, e = .ok v s ∧ f v s = .ok w t := by
  cases e with
  | ok v s => exact ⟨v, s, rfl, h⟩
  | halt s => cases h

/-- Statements in sequence halt where the first of them does, or where a later one does. -/
theorem Eng.bind_eq_halt {e : Eng α} {f : α → State → Eng β} (h : e.bind f = .halt t) :
    e = .halt t ∨ ∃ v s, e = .ok v s ∧ f v s = .halt t := by
  cases e with
  | ok v s => exact .inr ⟨v, s, rfl, h⟩
  | halt s => cases h; exact .inl rfl

/-- An instruction always has a next state (R119: a halt is one). -/
theorem Eng.finish_next (e : Eng Unit) : ∃ t, e.finish = .next t := by
  cases e <;> exact ⟨_, rfl⟩

/-- What every state that some statements lead to has: `P` where they complete, `Q` where the run halts. -/
def Eng.Leads (e : Eng α) (P : α → State → Prop) (Q : State → Prop) : Prop :=
  match e with
  | .ok v s => P v s
  | .halt s => Q s

/-- The rule for statements in sequence. -/
theorem Eng.Leads.bind {e : Eng α} {f : α → State → Eng β} {P : α → State → Prop} {R : β → State → Prop}
    {Q : State → Prop} (he : e.Leads P Q) (hf : ∀ v s, P v s → (f v s).Leads R Q) : (e.bind f).Leads R Q := by
  cases e with
  | ok v s => exact hf v s he
  | halt s => exact he

/-- The rule for the end of an instruction. -/
theorem Eng.Leads.finish {e : Eng Unit} {P : Unit → State → Prop} {Q : State → Prop} (he : e.Leads P Q)
    (hP : ∀ u s, P u s → Q s) : ∃ t, e.finish = .next t ∧ Q t := by
  cases e with
  | ok u s => exact ⟨s, rfl, hP u s he⟩
  | halt s => exact ⟨s, rfl, he⟩

/-! ### Halts -/

theorem haltPrivilege_eq (a : Word) (s : State) : haltPrivilege a s = afterViolation a s := rfl

theorem haltProtocol_record_eq (q : Request) (a : Word) (s : State) :
    haltProtocol (.addressOutOfRange a) (s.record q) = afterOutOfRange q a s := rfl

theorem haltClean_eq (s : State) : haltClean s =
    { s with run := .halted .clean, service := .stopped, trace := s.trace ++ [.shutdown],
             sent := s.sent ++ [.terminate] } := rfl

/-! ### The guarded access -/

theorem violates_iff : violates s a = true ↔ Violating s a := by
  simp [violates, Violating]

theorem inRange_iff : inRange s a = true ↔ 0 ≤ a.toInt ∧ a.toInt < s.cfg.totalSize.toInt := by
  simp [inRange]

/-- Every address is exactly one of allowed, violating, out of range. -/
theorem access_trichotomy (s : State) (a : Word) : Accessible s a ∨ Violating s a ∨ OutOfRange s a := by
  unfold OutOfRange
  by_cases hv : Violating s a
  · exact .inr (.inl hv)
  · by_cases hr : 0 ≤ a.toInt ∧ a.toInt < s.cfg.totalSize.toInt
    · exact .inl ⟨fun hm => not_le.1 fun h => hv ⟨hm, h⟩, hr⟩
    · exact .inr (.inr ⟨hv, by omega⟩)

theorem Accessible.not_violating (h : Accessible s a) : ¬ Violating s a :=
  fun hv => absurd (h.1 hv.1) (not_lt.2 hv.2)

theorem OutOfRange.not_inRange (h : OutOfRange s a) : inRange s a = false :=
  Bool.eq_false_iff.2 fun hr => by
    have := inRange_iff.1 hr
    have := h.2
    omega

theorem memRead_accessible (h : Accessible s a) :
    memRead a s = .ok (s.mem.read a.toNat) (s.record (.read a)) := by
  have hr : inRange (s.record (.read a)) a = true := inRange_iff.2 h.2
  simp [memRead, guarded, serveRead, violates_iff, h.not_violating, hr]

theorem memRead_violating (h : Violating s a) : memRead a s = .halt (afterViolation a s) := by
  simp [memRead, guarded, violates_iff, h, haltPrivilege_eq]

theorem memRead_outOfRange (h : OutOfRange s a) :
    memRead a s = .halt (afterOutOfRange (.read a) a s) := by
  have hr : inRange (s.record (.read a)) a = false := h.not_inRange
  simp [memRead, guarded, serveRead, violates_iff, h.1, hr, haltProtocol_record_eq]

theorem memWrite_accessible (h : Accessible s a) :
    memWrite a v s = .ok () ((s.record (.write a v)).setMem (s.mem.write a.toNat v)) := by
  have hr : inRange (s.record (.write a v)) a = true := inRange_iff.2 h.2
  simp [memWrite, guarded, serveWrite, violates_iff, h.not_violating, hr]

theorem memWrite_violating (h : Violating s a) : memWrite a v s = .halt (afterViolation a s) := by
  simp [memWrite, guarded, violates_iff, h, haltPrivilege_eq]

theorem memWrite_outOfRange (h : OutOfRange s a) :
    memWrite a v s = .halt (afterOutOfRange (.write a v) a s) := by
  have hr : inRange (s.record (.write a v)) a = false := h.not_inRange
  simp [memWrite, guarded, serveWrite, violates_iff, h.1, hr, haltProtocol_record_eq]

/-- Everything a read can do. -/
theorem memRead_cases (a : Word) (s : State) :
    (Accessible s a ∧ memRead a s = .ok (s.mem.read a.toNat) (s.record (.read a))) ∨
      (Violating s a ∧ memRead a s = .halt (afterViolation a s)) ∨
      (OutOfRange s a ∧ memRead a s = .halt (afterOutOfRange (.read a) a s)) :=
  (access_trichotomy s a).imp (fun h => ⟨h, memRead_accessible h⟩)
    (Or.imp (fun h => ⟨h, memRead_violating h⟩) fun h => ⟨h, memRead_outOfRange h⟩)

/-- Everything a write can do. -/
theorem memWrite_cases (a v : Word) (s : State) :
    (Accessible s a ∧ memWrite a v s = .ok () ((s.record (.write a v)).setMem (s.mem.write a.toNat v))) ∨
      (Violating s a ∧ memWrite a v s = .halt (afterViolation a s)) ∨
      (OutOfRange s a ∧ memWrite a v s = .halt (afterOutOfRange (.write a v) a s)) :=
  (access_trichotomy s a).imp (fun h => ⟨h, memWrite_accessible h⟩)
    (Or.imp (fun h => ⟨h, memWrite_violating h⟩) fun h => ⟨h, memWrite_outOfRange h⟩)

/-! ### The stack -/

theorem pushWord_eq (v : Word) (s : State) : pushWord v s = memWrite (s.sp - 1#32) v (s.setSp (s.sp - 1#32)) := rfl

theorem pushWord_accessible (h : Accessible s (s.sp - 1#32)) :
    pushWord v s = .ok ()
      { s with
        sp := s.sp - 1#32
        mem := s.mem.write (s.sp - 1#32).toNat v
        sent := s.sent ++ [.write (s.sp - 1#32) v] } := by
  rw [pushWord_eq, memWrite_accessible (s := s.setSp (s.sp - 1#32)) h]
  rfl

/-- Everything a push can do: SP is decremented in every case (R70 (f)). -/
theorem pushWord_cases (v : Word) (s : State) :
    (Accessible s (s.sp - 1#32) ∧ pushWord v s = .ok ()
        { s with
          sp := s.sp - 1#32
          mem := s.mem.write (s.sp - 1#32).toNat v
          sent := s.sent ++ [.write (s.sp - 1#32) v] }) ∨
      (Violating s (s.sp - 1#32) ∧ pushWord v s = .halt (afterViolation (s.sp - 1#32) { s with sp := s.sp - 1#32 })) ∨
      (OutOfRange s (s.sp - 1#32) ∧ pushWord v s =
        .halt (afterOutOfRange (.write (s.sp - 1#32) v) (s.sp - 1#32) { s with sp := s.sp - 1#32 })) := by
  rcases memWrite_cases (s.sp - 1#32) v (s.setSp (s.sp - 1#32)) with h | h | h
  · exact .inl ⟨h.1, pushWord_accessible h.1⟩
  · exact .inr (.inl h)
  · exact .inr (.inr h)

theorem popWord_accessible (h : Accessible s s.sp) :
    popWord s = .ok (s.mem.read s.sp.toNat) { s with sp := s.sp + 1#32, sent := s.sent ++ [.read s.sp] } := by
  rw [popWord, memRead_accessible h]
  rfl

/-- Everything a pop can do. -/
theorem popWord_cases (s : State) :
    (Accessible s s.sp ∧
        popWord s = .ok (s.mem.read s.sp.toNat) { s with sp := s.sp + 1#32, sent := s.sent ++ [.read s.sp] }) ∨
      (Violating s s.sp ∧ popWord s = .halt (afterViolation s.sp s)) ∨
      (OutOfRange s s.sp ∧ popWord s = .halt (afterOutOfRange (.read s.sp) s.sp s)) := by
  rcases memRead_cases s.sp s with h | h | h
  · exact .inl ⟨h.1, popWord_accessible h.1⟩
  · exact .inr (.inl ⟨h.1, by rw [popWord, h.2]; rfl⟩)
  · exact .inr (.inr ⟨h.1, by rw [popWord, h.2]; rfl⟩)

/-! ### Trap entry and trap return -/

/-- Under R6's constraints both of Int's saves are cells KERNEL mode may write (R104, Exceptions). -/
theorem saves_accessible (h : s.cfg.RegionsValid) (hm : s.mode = .kernel) :
    Accessible s (s.cfg.sysStackTop - 1#32) ∧ Accessible s (s.cfg.sysStackTop - 2#32) := by
  obtain ⟨h1, h2, h3, h4, h5, h6, h7⟩ := h
  have a1 : (s.cfg.sysStackTop - 1#32).toInt = s.cfg.sysStackTop.toInt - 1 := by
    rw [BitVec.toInt_sub, show (1#32).toInt = 1 from rfl, Int.bmod_def]
    omega
  have a2 : (s.cfg.sysStackTop - 2#32).toInt = s.cfg.sysStackTop.toInt - 2 := by
    rw [BitVec.toInt_sub, show (2#32).toInt = 2 from rfl, Int.bmod_def]
    omega
  have hu : s.mode ≠ .user := by rw [hm]; decide
  exact ⟨⟨fun h => absurd h hu, by omega, by omega⟩, fun h => absurd h hu, by omega, by omega⟩

/-- Trap entry where both saves are accessible in KERNEL mode: it completes (R104, R114). -/
theorem enterHandler_accessible
    (h1 : Accessible { s with mode := .kernel } (s.cfg.sysStackTop - 1#32))
    (h2 : Accessible { s with mode := .kernel } (s.cfg.sysStackTop - 2#32)) :
    enterHandler s = .ok ()
      { s with
        mode := .kernel
        sp := s.cfg.sysStackTop - 2#32
        pc := s.cfg.intHandler
        mem := (s.mem.write (s.cfg.sysStackTop - 1#32).toNat s.sp).write (s.cfg.sysStackTop - 2#32).toNat s.pc
        sent := s.sent ++ [.write (s.cfg.sysStackTop - 1#32) s.sp, .write (s.cfg.sysStackTop - 2#32) s.pc] } := by
  have h22 : s.cfg.sysStackTop - 2#32 = s.cfg.sysStackTop - 1#32 - 1#32 := by bv_omega
  rw [h22] at h2 ⊢
  unfold enterHandler
  rw [pushWord_accessible (s := (s.setMode .kernel).setSp s.cfg.sysStackTop) h1, Eng.bind_ok, pushWord_accessible h2]
  simp [State.setMode, State.setSp, State.setPc]

/-- Trap return where both saved cells are accessible: it completes (R105). -/
theorem leaveHandler_accessible (h1 : Accessible s s.sp) (h2 : Accessible s (s.sp + 1#32)) :
    leaveHandler s = .ok ()
      { s with
        mode := .user
        pc := s.mem.read s.sp.toNat
        sp := s.mem.read (s.sp + 1#32).toNat
        sent := s.sent ++ [.read s.sp, .read (s.sp + 1#32)] } := by
  unfold leaveHandler
  rw [popWord_accessible h1, Eng.bind_ok, popWord_accessible h2]
  simp [State.setMode, State.setSp, State.setPc]

/-! ### Fetch -/

/-- Everything the opcode fetch can do. -/
theorem fetchOpcode_cases (s : State) :
    (Accessible s s.pc ∧ fetchOpcode s = .ok (s.mem.read s.pc.toNat)
        { s with ir := s.mem.read s.pc.toNat, pc := s.pc + 1#32, sent := s.sent ++ [.read s.pc] }) ∨
      (Violating s s.pc ∧ fetchOpcode s = .halt (afterViolation s.pc s)) ∨
      (OutOfRange s s.pc ∧ fetchOpcode s = .halt (afterOutOfRange (.read s.pc) s.pc s)) := by
  rcases memRead_cases s.pc s with h | h | h
  · exact .inl ⟨h.1, by rw [fetchOpcode, h.2]; rfl⟩
  · exact .inr (.inl ⟨h.1, by rw [fetchOpcode, h.2]; rfl⟩)
  · exact .inr (.inr ⟨h.1, by rw [fetchOpcode, h.2]; rfl⟩)

/-- Everything an operand fetch can do. -/
theorem fetchOperand_cases (s : State) :
    (Accessible s s.pc ∧ fetchOperand s = .ok (s.mem.read s.pc.toNat)
        { s with pc := s.pc + 1#32, sent := s.sent ++ [.read s.pc] }) ∨
      (Violating s s.pc ∧ fetchOperand s = .halt (afterViolation s.pc s)) ∨
      (OutOfRange s s.pc ∧ fetchOperand s = .halt (afterOutOfRange (.read s.pc) s.pc s)) := by
  rcases memRead_cases s.pc s with h | h | h
  · exact .inl ⟨h.1, by rw [fetchOperand, h.2]; rfl⟩
  · exact .inr (.inl ⟨h.1, by rw [fetchOperand, h.2]; rfl⟩)
  · exact .inr (.inr ⟨h.1, by rw [fetchOperand, h.2]; rfl⟩)

/-! ### The random source -/

/-- A draw lies in `[1, 100]` (R79). -/
theorem drawWord_bounds (n : Nat) : 1 ≤ (drawWord n).toInt ∧ (drawWord n).toInt ≤ 100 := by
  have h := (Config.freeDraw n).isLt
  have : (drawWord n).toInt = (Config.freeDraw n).val + 1 := by
    unfold drawWord
    rw [BitVec.toInt_eq_toNat_bmod, BitVec.toNat_ofNat, Int.bmod_def]
    omega
  omega

end Sys2Proof.Machine
end

