-- ==== Sys2Proof/Laws/Step.lean ====
section
/-! SUPPORT. Said once: what a step can do. Every step is a sequence of small moves, each a register update, a request
served, an event or a change of mode, and then perhaps a halt. An invariant follows by induction on the moves. -/

namespace Sys2Proof.Machine

variable {p : Prop} {s t u : State} {α β : Type}

/-- One small move inside a step. A change of mode is a move only where `p` holds. -/
inductive Move (p : Prop) : State → State → Prop
  | registers {s t : State} (pc sp ir ac x y : Word) (d : Nat) (hd : s.draws ≤ d)
      (ht : t = { s with pc := pc, sp := sp, ir := ir, ac := ac, x := x, y := y, draws := d }) : Move p s t
  | read (s : State) (a : Word) (ha : Accessible s a) : Move p s { s with sent := s.sent ++ [.read a] }
  | write (s : State) (a v : Word) (ha : Accessible s a) :
      Move p s { s with mem := s.mem.write a.toNat v, sent := s.sent ++ [.write a v] }
  | output (s : State) (port v : Word) (hp : port = 1#32 ∨ port = 2#32) :
      Move p s { s with trace := s.trace ++ [.output port v] }
  | anomaly (s : State) (pc w : Word) (hw : s.cfg.opcodeMap.classOf w = none) :
      Move p s { s with trace := s.trace ++ [.anomaly pc w] }
  | mode (s : State) (m : Mode) (h : p) : Move p s { s with mode := m }

/-- How a step's moves end: the run goes on, or it halts in one of the three ways (R119). -/
inductive Ending : State → State → Prop
  | goesOn (s : State) : Ending s s
  | clean (s : State) : Ending s (haltClean s)
  | violation (s : State) (a : Word) (h : Violating s a) : Ending s (afterViolation a s)
  | outOfRange (s : State) (a : Word) (q : Request) (h : OutOfRange s a) (hq : q = .read a ∨ ∃ v, q = .write a v) :
      Ending s (afterOutOfRange q a s)

/-- Some moves. -/
def Moves (p : Prop) : State → State → Prop := Relation.ReflTransGen (Move p)

/-- Some moves and then an ending. -/
def Runs (p : Prop) (s t : State) : Prop := ∃ u, Moves p s u ∧ Ending u t

theorem Moves.refl (s : State) : Moves p s s := Relation.ReflTransGen.refl

theorem Moves.trans (h : Moves p s t) (h' : Moves p t u) : Moves p s u := Relation.ReflTransGen.trans h h'

theorem Move.moves (h : Move p s t) : Moves p s t := Relation.ReflTransGen.single h

/-- A change of registers only. -/
theorem Moves.registers
    (h : t = { s with pc := t.pc, sp := t.sp, ir := t.ir, ac := t.ac, x := t.x, y := t.y, draws := t.draws })
    (hd : s.draws ≤ t.draws) : Moves p s t :=
  (Move.registers t.pc t.sp t.ir t.ac t.x t.y t.draws hd h).moves

theorem Moves.runs (h : Moves p s t) : Runs p s t := ⟨t, h, .goesOn t⟩

theorem Moves.then_runs (h : Moves p s t) (h' : Runs p t u) : Runs p s u := by
  obtain ⟨w, hw, he⟩ := h'
  exact ⟨w, h.trans hw, he⟩

theorem Runs.mono {q : Prop} (h : Runs p s t) (hpq : p → q) : Runs q s t := by
  obtain ⟨u, hu, he⟩ := h
  refine ⟨u, ?_, he⟩
  clear he
  induction hu with
  | refl => exact .refl s
  | tail _ hm ih =>
    refine Moves.trans ih (Move.moves ?_)
    cases hm with
    | registers _ _ _ _ _ _ _ hd ht => exact .registers _ _ _ _ _ _ _ hd ht
    | read a ha => exact .read _ a ha
    | write a v ha => exact .write _ a v ha
    | output port v hp => exact .output _ port v hp
    | anomaly pc w hw => exact .anomaly _ pc w hw
    | mode m hc => exact .mode _ m (hpq hc)

/-- Where some statements run from `s` lead: moves where they complete, moves and an ending where the run halts. -/
def Eng.RunsFrom (p : Prop) (s : State) (e : Eng α) : Prop :=
  e.Leads (fun _ t => Moves p s t) (fun t => Runs p s t)

theorem Eng.RunsFrom.ok (v : α) (h : Moves p s t) : (Eng.ok v t).RunsFrom p s := h

/-- A completion that changed registers only. -/
theorem Eng.RunsFrom.registers (v : α)
    (h : t = { s with pc := t.pc, sp := t.sp, ir := t.ir, ac := t.ac, x := t.x, y := t.y, draws := t.draws })
    (hd : s.draws ≤ t.draws) : (Eng.ok v t).RunsFrom p s := Moves.registers h hd

theorem Eng.RunsFrom.after {e : Eng α} (h : Moves p s t) (he : e.RunsFrom p t) : e.RunsFrom p s := by
  cases e with
  | ok v u => exact Moves.trans h he
  | halt u => exact h.then_runs he

theorem Eng.RunsFrom.bind {e : Eng α} {f : α → State → Eng β} (he : e.RunsFrom p s)
    (hf : ∀ v t, (f v t).RunsFrom p t) : (e.bind f).RunsFrom p s := by
  cases e with
  | ok v t => exact Eng.RunsFrom.after he (hf v t)
  | halt t => exact he

theorem Eng.RunsFrom.finish {e : Eng Unit} (he : e.RunsFrom p s) : ∃ t, e.finish = .next t ∧ Runs p s t := by
  cases e with
  | ok v t => exact ⟨t, rfl, Moves.runs he⟩
  | halt t => exact ⟨t, rfl, he⟩

theorem memRead_runs (a : Word) (s : State) : (memRead a s).RunsFrom p s := by
  rcases memRead_cases a s with ⟨h, e⟩ | ⟨h, e⟩ | ⟨h, e⟩ <;> rw [e]
  · exact (Move.read s a h).moves
  · exact ⟨s, .refl s, .violation s a h⟩
  · exact ⟨s, .refl s, .outOfRange s a _ h (.inl rfl)⟩

theorem memWrite_runs (a v : Word) (s : State) : (memWrite a v s).RunsFrom p s := by
  rcases memWrite_cases a v s with ⟨h, e⟩ | ⟨h, e⟩ | ⟨h, e⟩ <;> rw [e]
  · exact (Move.write s a v h).moves
  · exact ⟨s, .refl s, .violation s a h⟩
  · exact ⟨s, .refl s, .outOfRange s a _ h (.inr ⟨v, rfl⟩)⟩

theorem pushWord_runs (v : Word) (s : State) : (pushWord v s).RunsFrom p s :=
  Eng.RunsFrom.after (t := s.setSp (s.sp - 1#32)) (.registers rfl (le_refl _)) (memWrite_runs _ v _)

theorem popWord_runs (s : State) : (popWord s).RunsFrom p s :=
  (memRead_runs s.sp s).bind fun _ _ => .registers _ rfl (le_refl _)

theorem fetchOpcode_runs (s : State) : (fetchOpcode s).RunsFrom p s :=
  (memRead_runs s.pc s).bind fun _ _ => .registers _ rfl (le_refl _)

theorem fetchOperand_runs (s : State) : (fetchOperand s).RunsFrom p s :=
  (memRead_runs s.pc s).bind fun _ _ => .registers _ rfl (le_refl _)

theorem loadFrom_runs (a : Word) (s : State) : (loadFrom a s).RunsFrom p s :=
  (memRead_runs a s).bind fun _ _ => .registers _ rfl (le_refl _)

theorem emitPort_moves (port : Word) (s : State) : Moves p s (emitPort port s) := by
  unfold emitPort
  split
  · exact (Move.output s _ _ (.inl rfl)).moves
  · split
    · exact (Move.output s _ _ (.inr rfl)).moves
    · exact .refl s

theorem enterHandler_runs (s : State) (h : p) : (enterHandler s).RunsFrom p s :=
  (Eng.RunsFrom.after (t := (s.setMode .kernel).setSp s.cfg.sysStackTop)
    ((Move.mode s .kernel h).moves.trans (.registers rfl (le_refl _))) (pushWord_runs s.sp _)).bind fun _ t =>
  (pushWord_runs t.pc t).bind fun _ _ => .registers _ rfl (le_refl _)

theorem leaveHandler_runs (s : State) (h : p) : (leaveHandler s).RunsFrom p s :=
  (popWord_runs s).bind fun w t => .after (t := t.setPc w) (.registers rfl (le_refl _)) <|
  (popWord_runs (t.setPc w)).bind fun w t =>
  .ok _ (.trans (t := t.setSp w) (.registers rfl (le_refl _)) (Move.mode (t.setSp w) .user h).moves)

/-- The instruction, in that mode, is one of the two that change the mode (R24). -/
def ChangesMode (c : Opcode) (m : Mode) : Prop := (c = .int ∧ m = .user) ∨ (c = .iRet ∧ m = .kernel)

/-- Everything a meaning can do. -/
theorem exec_runs (i : Instr) (s : State) : ∃ t, exec i s = .next t ∧ Runs (ChangesMode i.opcode s.mode) s t := by
  cases i
  case loadAddr a => exact (loadFrom_runs a s).finish
  case loadIndAddr a => exact ((memRead_runs a s).bind fun _ _ => loadFrom_runs _ _).finish
  case loadIdxXAddr a => exact (loadFrom_runs _ s).finish
  case loadIdxYAddr a => exact (loadFrom_runs _ s).finish
  case loadSpX => exact (loadFrom_runs _ s).finish
  case storeAddr a => exact (memWrite_runs a s.ac s).finish
  case get => exact ⟨_, rfl, Moves.runs (.registers rfl (Nat.le_succ _))⟩
  case putPort port => exact ⟨_, rfl, (emitPort_moves port s).runs⟩
  case jumpIfEqual a =>
    refine ⟨_, rfl, Moves.runs ?_⟩
    split
    · exact .registers rfl (le_refl _)
    · exact .refl s
  case jumpIfNotEqual a =>
    refine ⟨_, rfl, Moves.runs ?_⟩
    split
    · exact .refl s
    · exact .registers rfl (le_refl _)
  case callAddr a =>
    exact Eng.RunsFrom.finish (e := (pushWord s.pc s).bind fun _ s => .ok () (s.setPc a))
      ((pushWord_runs s.pc s).bind fun _ _ => .registers _ rfl (le_refl _))
  case ret =>
    exact Eng.RunsFrom.finish (e := (popWord s).bind fun w s => .ok () (s.setPc w))
      ((popWord_runs s).bind fun _ _ => .registers _ rfl (le_refl _))
  case push => exact (pushWord_runs s.ac s).finish
  case pop =>
    exact Eng.RunsFrom.finish (e := (popWord s).bind fun w s => .ok () (s.setAc w))
      ((popWord_runs s).bind fun _ _ => .registers _ rfl (le_refl _))
  case int =>
    cases hm : s.mode
    · simp only [exec, execInt, hm]
      exact (enterHandler_runs s (.inl ⟨rfl, rfl⟩)).finish
    · simp only [exec, execInt, hm]
      exact ⟨_, rfl, (Moves.refl s).runs⟩
  case iRet =>
    cases hm : s.mode
    · simp only [exec, execIRet, hm]
      exact ⟨_, rfl, (Moves.refl s).runs⟩
    · simp only [exec, execIRet, hm]
      exact (leaveHandler_runs s (.inr ⟨rfl, rfl⟩)).finish
  case endRun => exact ⟨_, rfl, s, .refl s, .clean s⟩
  all_goals exact ⟨_, rfl, Moves.runs (.registers rfl (le_refl _))⟩

/-- The step's opcode selects an instruction that, in the state's mode, changes the mode. -/
def ModeStep (s : State) : Prop :=
  ∃ c, s.cfg.opcodeMap.classOf (s.mem.read s.pc.toNat) = some c ∧ ChangesMode c s.mode

/-- Everything the fetch of a step can do, with what it decoded. -/
theorem fetchInstr_cases (s : State) :
    (∃ t, fetchInstr s = .over t ∧ ∀ p, Runs p s t) ∨
      ∃ i t, fetchInstr s = .run i t ∧ (∀ p, Moves p s t) ∧ t.mode = s.mode ∧ t.cfg = s.cfg ∧
        s.cfg.opcodeMap.classOf (s.mem.read s.pc.toNat) = some i.opcode := by
  have h1 := fun p => fetchOpcode_runs (p := p) s
  rcases fetchOpcode_cases s with ⟨-, e⟩ | ⟨-, e⟩ | ⟨-, e⟩ <;> rw [e] at h1 <;> unfold fetchInstr <;> rw [e]
  · generalize hs1 : ({ s with ir := s.mem.read s.pc.toNat, pc := s.pc + 1#32,
                               sent := s.sent ++ [.read s.pc] } : State) = s1
    rw [hs1] at h1
    have hcfg : s1.cfg = s.cfg := by rw [← hs1]
    have hmode : s1.mode = s.mode := by rw [← hs1]
    have hir : s1.ir = s.mem.read s.pc.toNat := by rw [← hs1]
    simp only [hcfg]
    cases hc : s.cfg.opcodeMap.classOf (s.mem.read s.pc.toNat) with
    | none =>
      refine .inl ⟨_, rfl, fun p => ((h1 p).trans (Move.anomaly s1 s.pc s1.ir ?_).moves).runs⟩
      rw [hir, hcfg, hc]
    | some c =>
      simp only [fetchRest]
      by_cases ho : c.hasOperand = true
      · rw [if_pos ho]
        have h2 := fun p => fetchOperand_runs (p := p) s1
        rcases fetchOperand_cases s1 with ⟨_, e2⟩ | ⟨_, e2⟩ | ⟨_, e2⟩ <;> rw [e2] at h2 ⊢
        · exact .inr ⟨_, _, rfl, fun p => (h1 p).trans (h2 p), hmode, hcfg, by simp⟩
        · exact .inl ⟨_, rfl, fun p => Moves.then_runs (h1 p) (h2 p)⟩
        · exact .inl ⟨_, rfl, fun p => Moves.then_runs (h1 p) (h2 p)⟩
      · rw [if_neg ho]
        exact .inr ⟨_, _, rfl, h1, hmode, hcfg, by simp⟩
  · exact .inl ⟨_, rfl, h1⟩
  · exact .inl ⟨_, rfl, h1⟩

/-- Everything a step can do: it runs from a running engine and a serving service, by moves and an ending, and its moves
change the mode only where the opcode at PC is Int in USER mode or IRet in KERNEL mode. -/
theorem step_runs (h : step s = .next t) : s.run = .running ∧ s.service = .serving ∧ Runs (ModeStep s) s t := by
  unfold step at h
  split at h
  · cases h
  · rename_i hr
    split at h
    · rename_i hs
      refine ⟨hr, hs, ?_⟩
      rcases fetchInstr_cases s with ⟨u, e, hu⟩ | ⟨i, u, e, hu, hm, -, hi⟩
      · rw [e] at h
        cases h
        exact hu _
      · rw [e] at h
        obtain ⟨w, hw, hrun⟩ := exec_runs i u
        simp only [hw] at h
        cases h
        exact (hu _).then_runs (hrun.mono fun hc => ⟨_, hi, hm ▸ hc⟩)
    · cases h

/-! ### The slide over zero cells -/

@[simp] theorem slideAnomalies_zero (pc : Word) : slideAnomalies 0 pc = [] := rfl
@[simp] theorem slideReads_zero (pc : Word) : slideReads 0 pc = [] := rfl

/-- The first cell of a slide, and the slide from the next cell. -/
theorem slideAnomalies_succ (n : Nat) (pc : Word) :
    slideAnomalies (n + 1) pc = .anomaly pc 0#32 :: slideAnomalies n (pc + 1#32) := by
  simp only [slideAnomalies, List.range_succ_eq_map, List.map_cons, List.map_map, BitVec.add_zero,
    List.cons.injEq, true_and, List.map_inj_left, Function.comp_apply, Nat.succ_eq_add_one, BitVec.ofNat_add]
  intro i _
  congr 1
  ac_rfl

theorem slideReads_succ (n : Nat) (pc : Word) :
    slideReads (n + 1) pc = .read pc :: slideReads n (pc + 1#32) := by
  simp only [slideReads, List.range_succ_eq_map, List.map_cons, List.map_map, BitVec.add_zero,
    List.cons.injEq, true_and, List.map_inj_left, Function.comp_apply, Nat.succ_eq_add_one, BitVec.ofNat_add]
  intro i _
  congr 1
  ac_rfl

/-- A run whose first step has a next state goes on from there. -/
theorem run_of_step (h : step s = .next t) (k : Nat) : Sys2Proof.core.run (k + 1) s = Sys2Proof.core.run k t := by
  simp only [Host.Core.run, show Sys2Proof.core.step s = .next t from h]

end Sys2Proof.Machine
end

