-- ==== Sys2Proof/Tests/Slice0.lean ====
section
/-! SUPPORT. The model's own tests. The expected results are those of spec/95_test_vectors.md, by the vector's id, or of
the spec's rule named; words are written out from spec/30_encoding.md R65. The last section shows, for each obligation
that has hypotheses, a state and operands that meet them together. -/

namespace Sys2Proof.Tests

open Sys2Proof.Machine

/-- The reset state with some cells of the launch image. -/
def withCells (cells : Image) : State := loadImage cells State.reset

/-- The same in KERNEL mode. -/
def kernelWith (cells : Image) : State := (withCells cells).setMode .kernel

/-- The result is a next state with a property. -/
def next (r : Result) (p : State → Bool) : Bool :=
  match r with
  | .next s => p s
  | .fault _ => false
  | .refused _ => false

/-- Halted with a privilege violation at `a` (R121). -/
def haltedPV (a : Word) (s : State) : Bool :=
  s.run == .halted (.privilegeViolation a) && s.service == .stopped && s.trace == [.shutdown] &&
  s.sent.getLast? == some .terminate

/-- Halted with a protocol error at `a`, with no Shutdown (R122). -/
def haltedPE (a : Word) (s : State) : Bool :=
  s.run == .halted (.protocolError (.addressOutOfRange a)) && s.service == .failed (.addressOutOfRange a) &&
  s.trace == [] && !s.sent.contains .terminate

/-! ### The checks of WellFormed.lean, each with a term it refuses -/

theorem test_standard_accepted : Config.standard.Valid := by decide

theorem test_userLimit_zero_refused : ¬ { Config.standard with userLimit := 0 }.Valid := by decide

theorem test_userLimit_at_totalSize_refused : ¬ { Config.standard with userLimit := 2000 }.RegionsValid := by decide

theorem test_totalSize_beyond_words_refused : ¬ { Config.standard with totalSize := 0x80000000 }.RegionsValid := by
  decide

theorem test_intHandler_in_user_region_refused : ¬ { Config.standard with intHandler := 999 }.RegionsValid := by decide

theorem test_intHandler_at_totalSize_refused : ¬ { Config.standard with intHandler := 2000 }.RegionsValid := by decide

theorem test_sysStackTop_at_userLimit_refused : ¬ { Config.standard with sysStackTop := 1000 }.RegionsValid := by decide

theorem test_sysStackTop_beyond_totalSize_refused : ¬ { Config.standard with sysStackTop := 2001 }.RegionsValid := by
  decide

theorem test_map_not_injective_refused : ¬ { OpcodeMap.standard with push := 28 }.Valid (-1) := by decide

theorem test_map_with_sentinel_refused : ¬ { OpcodeMap.standard with push := -1 }.Valid (-1) := by decide

theorem test_image_outside_refused :
    launch Config.standard [(0, 50), (2000, 1)] = .refused (.imageOutOfRange 2000) ∧
    launch Config.standard [(-1, 1)] = .refused (.imageOutOfRange (-1)) := by
  constructor <;> rfl

theorem test_bad_configuration_refused :
    launch { Config.standard with userLimit := 0 } [] = .refused .invalidConfiguration := by
  rfl

/-- No instruction is ill-formed: every word is an operand (R63, R95). -/
theorem test_every_operand_is_well_formed : (Instr.jumpAddr (-1)).wellFormed = true := by decide

/-! ### Decoding, from the words of R65 (an operand in the second cell, its top bit and low bits set) -/

theorem test_decode_load_store :
    decodeTableWord 64 0x8000000100000001 = some (.loadVal 0x80000001) ∧
    decodeTableWord 64 0x8000000200000002 = some (.loadAddr 0x80000002) ∧
    decodeTableWord 64 0x8000000300000003 = some (.loadIndAddr 0x80000003) ∧
    decodeTableWord 64 0x8000000400000004 = some (.loadIdxXAddr 0x80000004) ∧
    decodeTableWord 64 0x8000000500000005 = some (.loadIdxYAddr 0x80000005) ∧
    decodeTableWord 32 0x00000006 = some .loadSpX ∧
    decodeTableWord 64 0x8000000700000007 = some (.storeAddr 0x80000007) := by
  decide

theorem test_decode_random_and_port :
    decodeTableWord 32 0x00000008 = some .get ∧
    decodeTableWord 64 0x8000000200000009 = some (.putPort 0x80000002) := by
  decide

theorem test_decode_arithmetic :
    decodeTableWord 32 0x0000000a = some .addX ∧
    decodeTableWord 32 0x0000000b = some .addY ∧
    decodeTableWord 32 0x0000000c = some .subX ∧
    decodeTableWord 32 0x0000000d = some .subY ∧
    decodeTableWord 32 0x00000019 = some .incX ∧
    decodeTableWord 32 0x0000001a = some .decX := by
  decide

theorem test_decode_transfer :
    decodeTableWord 32 0x0000000e = some .copyToX ∧
    decodeTableWord 32 0x0000000f = some .copyFromX ∧
    decodeTableWord 32 0x00000010 = some .copyToY ∧
    decodeTableWord 32 0x00000011 = some .copyFromY ∧
    decodeTableWord 32 0x00000012 = some .copyToSp ∧
    decodeTableWord 32 0x00000013 = some .copyFromSp := by
  decide

theorem test_decode_control :
    decodeTableWord 64 0x8000000100000014 = some (.jumpAddr 0x80000001) ∧
    decodeTableWord 64 0x8000000200000015 = some (.jumpIfEqual 0x80000002) ∧
    decodeTableWord 64 0x8000000300000016 = some (.jumpIfNotEqual 0x80000003) ∧
    decodeTableWord 64 0x8000000400000017 = some (.callAddr 0x80000004) ∧
    decodeTableWord 32 0x00000018 = some .ret := by
  decide

theorem test_decode_stack :
    decodeTableWord 32 0x0000001b = some .push ∧
    decodeTableWord 32 0x0000001c = some .pop := by
  decide

theorem test_decode_system :
    decodeTableWord 32 0x0000001d = some .int ∧
    decodeTableWord 32 0x0000001e = some .iRet ∧
    decodeTableWord 32 0x00000032 = some .endRun := by
  decide
/-- Malformed words: 0, 31, 49, 51, -1, and a valid number with a high bit set (R66). -/
theorem test_decode_refuses_malformed :
    decodeTableWord 32 0 = none ∧ decodeTableWord 32 31 = none ∧ decodeTableWord 32 49 = none ∧
    decodeTableWord 32 51 = none ∧ decodeTableWord 32 0xffffffff = none ∧ decodeTableWord 32 0x80000001 = none := by
  decide

theorem test_decode_needs_its_operand : decode OpcodeMap.standard [20] = .error (.missingOperand .jumpAddr) := by rfl

/-! ### One step each (spec/95_test_vectors.md L2) -/

/-- LS1. -/
theorem test_loadVal_negative :
    next (step (withCells [(0, 1), (1, -7)])) (fun s => s.ac == -7 && s.pc == 2 && s.ir == 1) = true := by decide

/-- LS2. -/
theorem test_loadAddr :
    next (step (withCells [(0, 2), (1, 500), (500, 42)])) (fun s => s.ac == 42 && s.pc == 2) = true := by decide

/-- LS3: no READ of 1000 is issued. -/
theorem test_loadAddr_violation :
    next (step (withCells [(0, 2), (1, 1000)]))
      (fun s => haltedPV 1000 s && s.ac == 0 && s.pc == 2 && s.sent == [.read 0, .read 1, .terminate]) = true := by
  decide

/-- LS5. -/
theorem test_loadIndAddr :
    next (step (withCells [(0, 3), (1, 50), (50, 60), (60, 123)]))
      (fun s => s.ac == 123 && s.pc == 2 && s.sent == [.read 0, .read 1, .read 50, .read 60]) = true := by decide

/-- LS6. -/
theorem test_loadIndAddr_bad_pointer :
    next (step (withCells [(0, 3), (1, 50), (50, 1200)]))
      (fun s => haltedPV 1200 s && s.ac == 0 && s.pc == 2) = true := by
  decide

/-- LS7. -/
theorem test_loadIdxXAddr :
    next (step ((withCells [(0, 4), (1, 100), (103, 9)]).setX 3)) (fun s => s.ac == 9 && s.pc == 2) = true := by decide

/-- LS8. -/
theorem test_loadIdxXAddr_negative_sum :
    next (step ((withCells [(0, 4), (1, 100)]).setX (-101)))
      (fun s => haltedPE (-1) s && s.ac == 0 && s.pc == 2) = true := by
  decide

/-- LS10. -/
theorem test_loadIdxYAddr :
    next (step ((withCells [(0, 5), (1, 200), (198, 8)]).setY (-2))) (fun s => s.ac == 8 && s.pc == 2) = true := by
  decide

/-- R75, the example's second half. -/
theorem test_loadIdxYAddr_violation :
    next (step ((withCells [(0, 5), (1, 99)]).setY 901)) (haltedPV 1000) = true := by decide

/-- LS11. -/
theorem test_loadSpX :
    next (step (((withCells [(0, 6), (996, 31)]).setSp 995).setX 1))
      (fun s => s.ac == 31 && s.pc == 1 && s.sp == 995) = true := by decide

/-- LS12. -/
theorem test_loadSpX_empty_stack : next (step (withCells [(0, 6)])) (haltedPV 1000) = true := by decide

/-- LS13. -/
theorem test_storeAddr :
    next (step ((withCells [(0, 7), (1, 300)]).setAc (-5)))
      (fun s => s.mem.read 300 == -5 && s.pc == 2 && s.ac == -5) = true := by decide

/-- LS16. -/
theorem test_storeAddr_violation :
    next (step ((withCells [(0, 7), (1, 1500)]).setAc 9))
      (fun s => haltedPV 1500 s && s.mem.read 1500 == 0) = true := by
  decide

/-- IO1 and IO2: what every draw gives. -/
theorem test_get_advances : next (step (withCells [(0, 8)])) (fun s => s.pc == 1 && s.draws == 1) = true := by decide

/-- IO3. -/
theorem test_putPort_decimal :
    next (step ((withCells [(0, 9), (1, 1)]).setAc (-3)))
      (fun s => s.trace == [.output 1 (-3)] && s.pc == 2) = true := by
  decide

/-- IO4, IO7. -/
theorem test_putPort_character_and_unused :
    next (step ((withCells [(0, 9), (1, 2)]).setAc 72)) (fun s => s.trace == [.output 2 72]) = true ∧
    next (step (withCells [(0, 9), (1, 1000)])) (fun s => s.trace == [] && s.pc == 2 && s.run == .running) = true := by
  decide

/-- AR2. -/
theorem test_addX_wraps :
    next (step (((withCells [(0, 10)]).setAc 2147483647).setX 1))
      (fun s => s.ac.toInt == -2147483648 && s.x == 1) = true := by
  decide

/-- AR3. -/
theorem test_addY_wraps :
    next (step (((withCells [(0, 11)]).setAc (-2147483648)).setY (-1))) (fun s => s.ac.toInt == 2147483647) = true := by
  decide

/-- AR4. -/
theorem test_subX_wraps :
    next (step (((withCells [(0, 12)]).setAc (-2147483648)).setX 1)) (fun s => s.ac.toInt == 2147483647) = true := by
  decide

/-- AR5. -/
theorem test_subY : next (step (((withCells [(0, 13)]).setAc 5).setY 7)) (fun s => s.ac.toInt == -2) = true := by decide

/-- AR6. -/
theorem test_incX_wraps :
    next (step ((withCells [(0, 25)]).setX 2147483647)) (fun s => s.x.toInt == -2147483648 && s.ac == 0) = true := by
  decide

/-- AR7. -/
theorem test_decX_wraps :
    next (step ((withCells [(0, 26)]).setX (-2147483648))) (fun s => s.x.toInt == 2147483647) = true := by decide

/-- RT1. -/
theorem test_copyToX :
    next (step ((withCells [(0, 14)]).setAc 9)) (fun s => s.x == 9 && s.ac == 9 && s.pc == 1) = true := by decide

/-- RT2. -/
theorem test_copyFromX :
    next (step ((withCells [(0, 15)]).setX (-9))) (fun s => s.ac == -9 && s.x == -9) = true := by decide

/-- RT3. -/
theorem test_copyToY : next (step ((withCells [(0, 16)]).setAc 4)) (fun s => s.y == 4 && s.x == 0) = true := by decide

/-- RT4. -/
theorem test_copyFromY : next (step ((withCells [(0, 17)]).setY 4)) (fun s => s.ac == 4) = true := by decide

/-- RT5. -/
theorem test_copyToSp_unchecked :
    next (step ((withCells [(0, 18)]).setAc 1500)) (fun s => s.sp == 1500 && s.run == .running) = true := by decide

/-- RT7. -/
theorem test_copyFromSp : next (step (withCells [(0, 19)])) (fun s => s.ac == 1000) = true := by decide

/-- CT1, and the first step of CT8: a bad target is not checked by the jump. -/
theorem test_jumpAddr :
    next (step (withCells [(0, 20), (1, 40)])) (fun s => s.pc == 40) = true ∧
    next (step (withCells [(0, 20), (1, -1)])) (fun s => s.pc == -1 && s.run == .running) = true := by decide

/-- CT3 and CT4. -/
theorem test_jumpIfEqual :
    next (step ((withCells [(10, 21), (11, 30)]).setPc 10)) (fun s => s.pc == 30) = true ∧
    next (step (((withCells [(10, 21), (11, 30)]).setPc 10).setAc 1)) (fun s => s.pc == 12) = true := by decide

/-- CT6. -/
theorem test_jumpIfEqual_operand_faults :
    next (step (((withCells [(999, 21)]).setPc 999).setAc 1))
      (fun s => haltedPV 1000 s && s.pc == 1000 && s.ir == 21) = true := by
  decide

/-- CT5 and CT7. -/
theorem test_jumpIfNotEqual :
    next (step (((withCells [(14, 22), (15, 7)]).setPc 14).setAc (-1))) (fun s => s.pc == 7) = true ∧
    next (step ((withCells [(14, 22), (15, 7)]).setPc 14)) (fun s => s.pc == 16) = true := by decide

/-- CT9. -/
theorem test_callAddr :
    next (step ((withCells [(2, 23), (3, 10)]).setPc 2))
      (fun s => s.mem.read 999 == 4 && s.sp == 999 && s.pc == 10) = true := by decide

/-- CT12. -/
theorem test_callAddr_below_zero :
    next (step ((withCells [(0, 23), (1, 10)]).setSp 0))
      (fun s => haltedPE (-1) s && s.sp == -1 && s.pc == 2) = true := by
  decide

/-- CT10. -/
theorem test_ret :
    next (step ((withCells [(0, 24), (999, 4)]).setSp 999)) (fun s => s.pc == 4 && s.sp == 1000) = true := by
  decide

/-- CT11. -/
theorem test_ret_empty_stack :
    next (step (withCells [(0, 24)])) (fun s => haltedPV 1000 s && s.pc == 1 && s.sp == 1000) = true := by decide

/-- ST1. -/
theorem test_push :
    next (step ((withCells [(0, 27)]).setAc 11))
      (fun s => s.sp == 999 && s.mem.read 999 == 11 && s.pc == 1) = true := by
  decide

/-- ST5. -/
theorem test_push_violation :
    next (step (((withCells [(0, 27)]).setSp 1001).setAc 1)) (fun s => haltedPV 1000 s && s.sp == 1000) = true := by
  decide

/-- ST2. -/
theorem test_pop :
    next (step ((withCells [(0, 28), (998, 5)]).setSp 998))
      (fun s => s.ac == 5 && s.sp == 999 && s.mem.read 998 == 5) = true := by decide

/-- ST6. -/
theorem test_pop_past_the_top :
    next (step ((kernelWith [(0, 28)]).setSp 2000)) (fun s => haltedPE 2000 s && s.sp == 2000) = true := by decide

/-- SY1. -/
theorem test_int_user :
    next (step (((withCells [(3, 29)]).setPc 3).setSp 990))
      (fun s => s.mode == .kernel && s.sp == 1998 && s.mem.read 1999 == 990 && s.mem.read 1998 == 4 && s.pc == 1500) = true := by
  decide

/-- SY2. -/
theorem test_int_kernel_no_op :
    next (step (((kernelWith [(3, 29)]).setPc 3).setSp 1990))
      (fun s => s.pc == 4 && s.sp == 1990 && s.mode == .kernel && s.sent == [.read 3]) = true := by decide

/-- SY3. -/
theorem test_iRet_kernel :
    next (step (((kernelWith [(1600, 30), (1998, 3), (1999, 1000)]).setPc 1600).setSp 1998))
      (fun s => s.pc == 3 && s.sp == 1000 && s.mode == .user) = true := by decide

/-- SY4. -/
theorem test_iRet_user_no_op :
    next (step (withCells [(0, 30)]))
      (fun s => s.pc == 1 && s.sp == 1000 && s.mode == .user && s.sent == [.read 0]) = true := by
  decide

/-- SY5. -/
theorem test_endRun :
    next (step (withCells [(0, 50)]))
      (fun s => s.run == .halted .clean && s.pc == 1 && s.ir == 50 && s.trace == [.shutdown] && s.service == .stopped) = true := by
  decide

/-- SY6 and SY7. -/
theorem test_fetch_faults :
    next (step (State.reset.setPc 1000)) (fun s => haltedPV 1000 s && s.ir == -1 && s.pc == 1000) = true ∧
    next (step ((kernelWith []).setPc 2000)) (haltedPE 2000) = true := by decide

/-- SY9 and SY10. -/
theorem test_malformed :
    next (step ((withCells [(5, 31)]).setPc 5)) (fun s => s.trace == [.anomaly 5 31] && s.pc == 6) = true ∧
    next (step (withCells [(0, -1)])) (fun s => s.trace == [.anomaly 0 (-1)] && s.pc == 1 && s.ir == -1) = true := by
  decide

/-- `withFetchWord` puts an instruction where the step fetches it. -/
theorem test_withFetchWord :
    next (step (State.reset.withFetchWord 64 0x0000000500000001)) (fun s => s.ac == 5 && s.pc == 2) = true := by decide

/-! ### Witnesses: states and operands that meet an obligation's hypotheses together -/

/-- An operand of the highest user cell, the lowest cell, and stack addresses, all allowed at once in USER mode. -/
def ready : State :=
  { withCells [(0, 2), (1, 999), (999, 7), (7, 8)] with sp := 998, ac := 3, x := 0, y := 0 }

theorem witness_map_injective : (Opcode.all.map OpcodeMap.standard.numberOf).Nodup := by decide

theorem witness_EncodeOfDecode :
    decode OpcodeMap.standard [7, 1500, 9] = .ok (.storeAddr 1500, [9]) := by rfl

theorem witness_StepRunsDecodedInstruction :
    ready.run = .running ∧ ready.service = .serving ∧ Accessible ready ready.pc ∧ Accessible ready (ready.pc + 1#32) ∧
    decode ready.cfg.opcodeMap [ready.mem.read ready.pc.toNat, ready.mem.read (ready.pc + 1#32).toNat] =
      .ok (.loadAddr 999, []) ∧ (Instr.loadAddr 999).operand = some 999 := by
  refine ⟨rfl, rfl, by decide, by decide, rfl, rfl⟩

theorem witness_StepRunsDecodedInstruction_one_cell :
    (withCells [(0, 10)]).run = .running ∧ (withCells [(0, 10)]).service = .serving ∧
    Accessible (withCells [(0, 10)]) 0 ∧
    decode (withCells [(0, 10)]).cfg.opcodeMap [(withCells [(0, 10)]).mem.read 0, (withCells [(0, 10)]).mem.read 1] =
      .ok (.addX, [0]) ∧ Instr.addX.operand = none := by
  refine ⟨rfl, rfl, by decide, rfl, rfl⟩

theorem witness_OpcodeFetchHalts :
    Violating (State.reset.setPc 1000) (State.reset.setPc 1000).pc ∧
    OutOfRange (State.reset.setPc (-1)) (State.reset.setPc (-1)).pc ∧
    OutOfRange ((kernelWith []).setPc 2000) ((kernelWith []).setPc 2000).pc := by decide

theorem witness_OperandFetchHalts :
    Accessible ((withCells [(999, 21)]).setPc 999) 999 ∧
    ((withCells [(999, 21)]).setPc 999).cfg.opcodeMap.classOf (((withCells [(999, 21)]).setPc 999).mem.read 999) =
      some .jumpIfEqual ∧ Opcode.jumpIfEqual.hasOperand = true ∧
    Violating ((withCells [(999, 21)]).setPc 999) (((withCells [(999, 21)]).setPc 999).pc + 1#32) := by decide

theorem witness_OperandFetchHalts_outOfRange :
    Accessible ((kernelWith [(1999, 2)]).setPc 1999) 1999 ∧
    ((kernelWith [(1999, 2)]).setPc 1999).cfg.opcodeMap.classOf (((kernelWith [(1999, 2)]).setPc 1999).mem.read 1999) =
      some .loadAddr ∧ OutOfRange ((kernelWith [(1999, 2)]).setPc 1999) (((kernelWith [(1999, 2)]).setPc 1999).pc + 1#32) := by
  decide

theorem witness_MalformedOpcodeIsAnomaly :
    Accessible State.reset State.reset.pc ∧
    State.reset.cfg.opcodeMap.classOf (State.reset.mem.read State.reset.pc.toNat) = none := by decide

theorem witness_StepExistsExactlyWhileRunning :
    State.reset.run = .running ∧ State.reset.service = .serving ∧ (haltClean State.reset).run = .halted .clean ∧
    (State.powerOn Config.standard).run = .running ∧ (State.powerOn Config.standard).service ≠ .serving := by decide

theorem witness_LoadsReadTheirCell :
    Accessible ready 999 ∧ Accessible ready (999 + ready.x) ∧ Accessible ready (999 + ready.y) ∧
    Accessible ready (ready.sp + ready.x) := by decide

theorem witness_IndirectLoadFollowsPointer :
    (7 : Word) = ready.mem.read (999 : Word).toNat ∧ Accessible ready 999 ∧ Accessible ready 7 := by decide

/-- The boundary addresses: `USER_LIMIT` violates, -1 and (in KERNEL mode) `TOTAL_SIZE` are out of range. -/
theorem witness_bad_addresses :
    Violating ready 1000 ∧ Violating ready (1000 + ready.x) ∧ Violating ready (1000 + ready.y) ∧
    OutOfRange ready (-1) ∧ OutOfRange ready (-1 + ready.x) ∧ OutOfRange ready (-1 + ready.y) ∧
    OutOfRange (kernelWith []) 2000 ∧
    Violating (ready.setSp 1000) ((ready.setSp 1000).sp + ready.x) ∧
    OutOfRange (ready.setSp (-1)) ((ready.setSp (-1)).sp + ready.x) := by decide

theorem witness_LoadsHaltOnBadAddress_pointer :
    Accessible (withCells [(50, 1200), (51, -1)]) 50 ∧
    Violating (withCells [(50, 1200), (51, -1)]) ((withCells [(50, 1200), (51, -1)]).mem.read (50 : Word).toNat) ∧
    Accessible (withCells [(50, 1200), (51, -1)]) 51 ∧
    OutOfRange (withCells [(50, 1200), (51, -1)]) ((withCells [(50, 1200), (51, -1)]).mem.read (51 : Word).toNat) := by
  decide

/-- Stores, calls and pushes, and a store into the cell at PC. -/
theorem witness_stores :
    ready.mem.wf = true ∧ Accessible ready 999 ∧ Accessible ready (ready.sp - 1#32) ∧ Accessible ready ready.pc := by
  decide

theorem witness_pops : Accessible ready ready.sp := by decide

theorem witness_PutPortEmitsOnItsTwoPorts : (3 : Word) ≠ 1#32 ∧ (3 : Word) ≠ 2#32 := by decide

theorem witness_JumpsSetThePc : State.reset.ac = 0#32 ∧ ready.ac ≠ 0#32 := by decide

theorem witness_CallAndReturnBalance :
    ∃ t, exec (.callAddr 10) ready = .next t ∧
      (t.setPc 20).cfg = t.cfg ∧ (t.setPc 20).mode = t.mode ∧ (t.setPc 20).sp = t.sp ∧
      (t.setPc 20).mem.read t.sp.toNat = t.mem.read t.sp.toNat :=
  ⟨_, rfl, rfl, rfl, rfl, rfl⟩

theorem witness_StackHaltsOnBadAddress :
    Violating (ready.setSp 1001) ((ready.setSp 1001).sp - 1#32) ∧ OutOfRange (ready.setSp 0) ((ready.setSp 0).sp - 1#32) ∧
    Violating (ready.setSp 1000) (ready.setSp 1000).sp ∧ OutOfRange (ready.setSp (-1)) (ready.setSp (-1)).sp := by
  decide

theorem witness_SystemCallEntersHandler :
    ready.cfg.RegionsValid ∧ ready.mem.wf = true ∧ ready.mode = .user := by decide

theorem witness_SystemReturnRestores :
    ((kernelWith []).setSp 1998).mode = .kernel ∧
    Accessible ((kernelWith []).setSp 1998) ((kernelWith []).setSp 1998).sp ∧
    Accessible ((kernelWith []).setSp 1998) (((kernelWith []).setSp 1998).sp + 1#32) := by decide

theorem witness_SystemReturnHaltsOnBadStack :
    ((kernelWith []).setSp 1999).mode = .kernel ∧
    OutOfRange ((kernelWith []).setSp 2000) ((kernelWith []).setSp 2000).sp ∧
    Accessible ((kernelWith []).setSp 1999) ((kernelWith []).setSp 1999).sp ∧
    OutOfRange ((kernelWith []).setSp 1999) (((kernelWith []).setSp 1999).sp + 1#32) := by decide

theorem witness_SystemInstructionsAreNoOpsInOtherMode :
    (kernelWith []).mode = .kernel ∧ State.reset.mode = .user := by decide

/-- Int at 0 and IRet at the handler (W3). -/
theorem witness_SystemCallRoundTrip :
    (withCells [(0, 29), (1500, 30)]).run = .running ∧ (withCells [(0, 29), (1500, 30)]).service = .serving ∧
    (withCells [(0, 29), (1500, 30)]).cfg.Valid ∧ (withCells [(0, 29), (1500, 30)]).mem.wf = true ∧
    (withCells [(0, 29), (1500, 30)]).mode = .user ∧ Accessible (withCells [(0, 29), (1500, 30)]) 0 ∧
    (withCells [(0, 29), (1500, 30)]).mem.read 0 = OpcodeMap.standard.numberOf .int ∧
    (withCells [(0, 29), (1500, 30)]).mem.read (Config.standard.intHandler).toNat = OpcodeMap.standard.numberOf .iRet ∧
    Config.standard.intHandler ≠ Config.standard.sysStackTop - 1#32 ∧
    Config.standard.intHandler ≠ Config.standard.sysStackTop - 2#32 := by decide

theorem witness_GuardedAccessChecksFirst :
    Violating ready 1000 ∧ OutOfRange ready (-1) ∧ Accessible ready 0 ∧ Accessible ready 999 := by decide

theorem witness_service_range :
    (0 ≤ (1999 : Word).toInt ∧ (1999 : Word).toInt < ready.cfg.totalSize.toInt) ∧ ready.mem.wf = true ∧
    (-1 : Word).toInt < 0 ∧ ready.cfg.totalSize.toInt ≤ (2000 : Word).toInt := by decide

theorem witness_SerialisedRequestsAreServedOrFail :
    ∃ (codes : MsgCode) (q : RawRequest), codes.read ≠ codes.write ∧ codes.read ≠ codes.terminate ∧
      codes.write ≠ codes.terminate ∧ q.discriminant ≠ codes.read ∧ q.discriminant ≠ codes.write ∧
      q.discriminant ≠ codes.terminate :=
  ⟨⟨1, 2, 3⟩, ⟨4, 0, 0⟩, by decide⟩

theorem witness_CleanHaltOnlyByEnd :
    ∃ t, step (withCells [(0, 50)]) = .next t ∧ t.run = .halted .clean := ⟨_, rfl, by decide⟩

theorem witness_PrivilegeHaltOnlyByViolation :
    (∃ t, step ((withCells []).setPc 1000) = .next t ∧ t.run = .halted (.privilegeViolation 1000)) ∧
    Violating ready 1000 := ⟨⟨_, rfl, by decide⟩, by decide⟩

theorem witness_ProtocolHaltOnlyByBadAddress :
    (∃ t, step ((withCells []).setPc (-1)) = .next t ∧ t.run = .halted (.protocolError (.addressOutOfRange (-1)))) ∧
    OutOfRange ready (-1) ∧ OutOfRange (kernelWith []) 2000 := ⟨⟨_, rfl, by decide⟩, by decide, by decide⟩

theorem witness_LaunchRefusesBadInput :
    ¬ { Config.standard with userLimit := 0 }.RegionsValid ∧ Config.standard.Valid ∧
    ∃ e ∈ [((2000 : Word), (1 : Word))], e.1.toInt < 0 ∨ Config.standard.totalSize.toInt ≤ e.1.toInt := by decide

/-- AddX on AddY's number, and End on the sentinel: each map breaks D1's constraint. -/
theorem witness_LaunchRefusesBadInput_map :
    (∃ k l, k ≠ l ∧ { OpcodeMap.standard with addX := 11 }.numberOf k = { OpcodeMap.standard with addX := 11 }.numberOf l) ∧
    ∃ k, { OpcodeMap.standard with endRun := -1 }.numberOf k = Config.standard.irSentinel :=
  ⟨⟨.addX, .addY, by decide, rfl⟩, .endRun, rfl⟩

theorem witness_LaunchGivesResetValues :
    Config.standard.Valid ∧
    (∀ e ∈ [((0 : Word), (50 : Word)), (1999, 7)], 0 ≤ e.1.toInt ∧ e.1.toInt < Config.standard.totalSize.toInt) ∧
    ([((0 : Word), (50 : Word)), (1999, 7)].map Prod.fst).Nodup := by
  refine ⟨by decide, fun e he => ?_, by decide⟩
  simp only [List.mem_cons, List.not_mem_nil, or_false] at he
  rcases he with rfl | rfl <;> decide

theorem witness_LaunchIsConsistent :
    launch Config.standard [(0, 50)] = .next ((loadImage [(0, 50)] (State.powerOn Config.standard)).setService .serving) := by
  rfl

/-- A consistent state that has a step: a cell of code in it. -/
theorem witness_StepKeepsConsistent : Consistent (withCells [(0, 10)]) ∧ ∃ t, step (withCells [(0, 10)]) = .next t := by
  refine ⟨⟨by decide, rfl, ?_, rfl, ?_, by decide, by decide⟩, _, rfl⟩
  · unfold MemoryInside
    decide
  · intro e he
    cases he

/-- A step, for the statements about every step. -/
theorem witness_step : ∃ t, step ready = .next t := ⟨_, rfl⟩

theorem witness_ModeChangesOnlyBySystemCallAndReturn :
    ∃ t, step (withCells [(0, 29)]) = .next t ∧ t.mode ≠ (withCells [(0, 29)]).mode :=
  ⟨_, rfl, by decide⟩

theorem witness_UserStepLeavesSystemRegion :
    (withCells [(0, 29)]).mem.wf = true ∧ (withCells [(0, 29)]).mode = .user ∧
    ∃ t, step (withCells [(0, 29)]) = .next t ∧ Config.standard.userLimit.toInt ≤ ((1999 : Nat) : Int) ∧
      t.mem.read 1999 ≠ (withCells [(0, 29)]).mem.read 1999 := by
  refine ⟨rfl, rfl, _, rfl, by decide, by decide⟩

theorem witness_UserStepLearnsNothingOfSystemRegion :
    (withCells [(0, 10)]).mem.wf = true ∧ (withCells [(0, 10), (1500, 4)]).mem.wf = true ∧
    (withCells [(0, 10)]).mode = .user ∧ SameForUser (withCells [(0, 10)]) (withCells [(0, 10), (1500, 4)]) ∧
    ∃ t, step (withCells [(0, 10)]) = .next t := by
  refine ⟨rfl, rfl, rfl, ⟨rfl, fun a ha => ?_⟩, _, rfl⟩
  have ha : (a : Int) < 1000 := ha
  show Memory.read [(0, 10), (1500, 4)] a = Memory.read [(0, 10)] a
  simp only [Memory.read_cons, Memory.read_nil]
  rw [if_neg (show ¬ a = 1500 by omega)]

theorem witness_TimerThresholdHasNoEffect :
    (∃ t, step ready = .next t) ∧ ∃ f, step (haltClean ready) = .fault f :=
  ⟨⟨_, rfl⟩, _, rfl⟩

theorem witness_UserSlideOverZeroCells :
    (State.reset.setPc 998).run = .running ∧ (State.reset.setPc 998).service = .serving ∧
    (State.reset.setPc 998).cfg.RegionsValid ∧ (State.reset.setPc 998).cfg.opcodeMap.classOf 0#32 = none ∧
    (State.reset.setPc 998).mode = .user ∧ 0 ≤ (State.reset.setPc 998).pc.toInt ∧
    (State.reset.setPc 998).pc.toInt + (2 : Nat) = (State.reset.setPc 998).cfg.userLimit.toInt ∧
    ∀ a : Nat, (State.reset.setPc 998).pc.toNat ≤ a → (a : Int) < (State.reset.setPc 998).cfg.userLimit.toInt →
      (State.reset.setPc 998).mem.read a = 0#32 := by
  refine ⟨rfl, rfl, by decide, by decide, rfl, by decide, by decide, fun _ _ _ => rfl⟩

theorem witness_KernelSlideOverZeroCells :
    ((kernelWith []).setPc 1998).run = .running ∧ ((kernelWith []).setPc 1998).service = .serving ∧
    ((kernelWith []).setPc 1998).cfg.RegionsValid ∧ ((kernelWith []).setPc 1998).cfg.opcodeMap.classOf 0#32 = none ∧
    ((kernelWith []).setPc 1998).mode = .kernel ∧ 0 ≤ ((kernelWith []).setPc 1998).pc.toInt ∧
    ((kernelWith []).setPc 1998).pc.toInt + (2 : Nat) = ((kernelWith []).setPc 1998).cfg.totalSize.toInt ∧
    ∀ a : Nat, ((kernelWith []).setPc 1998).pc.toNat ≤ a → (a : Int) < ((kernelWith []).setPc 1998).cfg.totalSize.toInt →
      ((kernelWith []).setPc 1998).mem.read a = 0#32 := by
  refine ⟨rfl, rfl, by decide, by decide, rfl, by decide, by decide, fun _ _ _ => rfl⟩

end Sys2Proof.Tests
end

