-- ==== Sys2Proof/Proofs/LaunchRefusals.lean ====
section
/-! What a launch refuses: a configuration that is not valid, before the image is looked at, and an image with an entry
outside the Address Space (spec/00_scope.md R6, spec/20_memory.md R46, decision D1). -/

namespace Sys2Proof

variable {m : OpcodeMap} {sentinel : Word}

/-- Under D1 distinct classes have distinct numbers. -/
theorem OpcodeMap.Valid.numberOf_injective (h : m.Valid sentinel) : Function.Injective m.numberOf := by
  intro k l hkl
  have hsome : some k = some l := by
    rw [← OpcodeMap.classOf_numberOf h.1 k, hkl, OpcodeMap.classOf_numberOf h.1 l]
  exact Option.some.inj hsome

/-- Under D1 no class is mapped to `IR_SENTINEL`. -/
theorem OpcodeMap.Valid.numberOf_ne_sentinel (h : m.Valid sentinel) (k : Opcode) : m.numberOf k ≠ sentinel :=
  fun hk => h.2 (List.mem_map.2 ⟨k, k.mem_all, hk⟩)

end Sys2Proof

namespace Sys2Proof.Machine

variable {c : Config} {image : Image}

/-- A configuration that is not valid is refused whatever the image is (log entry 10). -/
theorem launch_of_not_valid (h : ¬ c.Valid) : launch c image = .refused .invalidConfiguration :=
  if_neg h

/-- With a valid configuration the first entry outside the Address Space refuses the launch (R46). -/
theorem launch_of_firstOutside_eq_some {e : Word × Word} (hc : c.Valid) (he : image.firstOutside c = some e) :
    launch c image = .refused (.imageOutOfRange e.1) := by
  rw [launch, if_pos hc, he]

/-- An image with an entry outside the Address Space has a first one. -/
theorem exists_firstOutside_eq_some
    (h : ∃ e ∈ image, e.1.toInt < 0 ∨ c.totalSize.toInt ≤ e.1.toInt) : ∃ e, image.firstOutside c = some e := by
  obtain ⟨e, hmem, hout⟩ := h
  refine Option.ne_none_iff_exists'.1 fun hnone => ?_
  have hin := firstOutside_eq_none.1 hnone e hmem
  omega

/-- Settles O44: each bad configuration breaks a part of `Config.Valid`, which is checked first; under a valid one the
refusal names the first entry outside the Address Space. -/
theorem launchRefusesBadInput : Obligations.LaunchRefusesBadInput := by
  intro c image
  refine ⟨fun hregions => ?_, fun ⟨k, l, hne, heq⟩ => ?_, fun ⟨k, hk⟩ => ?_, fun hc hout => ?_⟩
  · exact launch_of_not_valid fun hc => hregions hc.1
  · exact launch_of_not_valid fun hc => hne (hc.2.numberOf_injective heq)
  · exact launch_of_not_valid fun hc => hc.2.numberOf_ne_sentinel k hk
  · obtain ⟨e, he⟩ := exists_firstOutside_eq_some hout
    obtain ⟨hmem, hrange⟩ := firstOutside_eq_some he
    exact ⟨e, hmem, hrange, launch_of_firstOutside_eq_some hc he⟩

end Sys2Proof.Machine
end

/-! What every step does and keeps (spec/10_state.md): when it has a next state and what it fetches, that it only
appends to the record of the run, where it changes the mode, and the invariant of the reachable states. The last three
go by induction on the moves of `step_runs`. -/

namespace Sys2Proof.Machine

variable {p : Prop} {s t : State} {c : Opcode} {i : Instr} {a v : Word} {n : Nat} {e : Event} {q : Request}
  {h : HaltStatus} {r : ProtocolReason}

/-! ### The branches of a step -/

theorem step_of_halted (hr : s.run = .halted h) : step s = .fault (.engineHalted h) := by
  simp only [step, hr]

theorem step_of_not_serving (hr : s.run = .running) (hs : s.service ≠ .serving) :
    step s = .fault (.serviceNotServing s.service) := by
  simp only [step, hr]

theorem step_of_fetch_over (hr : s.run = .running) (hs : s.service = .serving) (hf : fetchInstr s = .over t) :
    step s = .next t := by
  simp only [step, hr, hs, hf]

theorem step_of_fetch_run (hr : s.run = .running) (hs : s.service = .serving) (hf : fetchInstr s = .run i t) :
    step s = exec i t := by
  simp only [step, hr, hs, hf]

/-- Settles O9: the fetch is over or gives an instruction, and every instruction has a next state. -/
theorem stepExistsExactlyWhileRunning : Obligations.StepExistsExactlyWhileRunning := by
  refine fun s => ⟨fun hr hs => ?_, fun h hr => step_of_halted hr, step_of_not_serving⟩
  rcases fetchInstr_cases s with ⟨t, hf, -⟩ | ⟨i, t, hf, -⟩
  · exact ⟨t, step_of_fetch_over hr hs hf⟩
  · obtain ⟨u, hu, -⟩ := exec_runs i t
    exact ⟨u, (step_of_fetch_run hr hs hf).trans hu⟩

/-! ### The fetch of a step -/

/-- The state after an opcode fetch (R32): IR and PC have changed, and a READ was sent. -/
def State.opcodeFetched (s : State) : State :=
  { s with ir := s.mem.read s.pc.toNat, pc := s.pc + 1#32, sent := s.sent ++ [.read s.pc] }

/-- The state after an operand fetch (R62): PC has changed, and a READ was sent. -/
def State.operandFetched (s : State) : State := { s with pc := s.pc + 1#32, sent := s.sent ++ [.read s.pc] }

theorem fetchOpcode_accessible (ha : Accessible s s.pc) :
    fetchOpcode s = .ok (s.mem.read s.pc.toNat) s.opcodeFetched := by
  rw [fetchOpcode, memRead_accessible ha]
  rfl

theorem fetchOperand_accessible (ha : Accessible s s.pc) :
    fetchOperand s = .ok (s.mem.read s.pc.toNat) s.operandFetched := by
  rw [fetchOperand, memRead_accessible ha]
  rfl

theorem fetchInstr_of_opcode_halt (hf : fetchOpcode s = .halt t) : fetchInstr s = .over t := by
  simp only [fetchInstr, hf]

/-- Settles O6: the opcode fetch is the step's first access, so where it halts the step is over. -/
theorem opcodeFetchHalts : Obligations.OpcodeFetchHalts := by
  refine fun s hr hs => ⟨fun hv => ?_, fun ho => ?_⟩
  · refine step_of_fetch_over hr hs (fetchInstr_of_opcode_halt ?_)
    rw [fetchOpcode, memRead_violating hv, Eng.bind_halt]
  · refine step_of_fetch_over hr hs (fetchInstr_of_opcode_halt ?_)
    rw [fetchOpcode, memRead_outOfRange ho, Eng.bind_halt]

/-- After the opcode of a class, what is left is the fetch of its operand. -/
theorem fetchInstr_of_class (ha : Accessible s s.pc)
    (hc : s.cfg.opcodeMap.classOf (s.mem.read s.pc.toNat) = some c) :
    fetchInstr s = fetchRest c s.opcodeFetched := by
  have hc' : s.opcodeFetched.cfg.opcodeMap.classOf (s.mem.read s.pc.toNat) = some c := hc
  simp only [fetchInstr, fetchOpcode_accessible ha, hc']

/-- A class of format N is fetched with its opcode (R64). -/
theorem fetchRest_of_one_cell (ho : c.hasOperand = false) : fetchRest c s = .run (c.withOperand 0) s := by
  simp [fetchRest, ho]

/-- A class with an operand reads it from the cell at PC (R62). -/
theorem fetchRest_of_two_cells (ho : c.hasOperand = true) (ha : Accessible s s.pc) :
    fetchRest c s = .run (c.withOperand (s.mem.read s.pc.toNat)) s.operandFetched := by
  simp only [fetchRest, ho, fetchOperand_accessible ha, if_true]

/-- The fetch of a two-cell instruction: PC is past both cells, and both READs were sent in order. -/
theorem State.operandFetched_opcodeFetched (s : State) : s.opcodeFetched.operandFetched =
    { s with
      ir := s.mem.read s.pc.toNat
      pc := s.pc + 2#32
      sent := s.sent ++ [.read s.pc, .read (s.pc + 1#32)] } := by
  simp [State.opcodeFetched, State.operandFetched, BitVec.add_assoc]

/-- Settles O5: the decoder and the fetch take the same class from the opcode, and the class says whether there is an
operand cell. -/
theorem stepRunsDecodedInstruction : Obligations.StepRunsDecodedInstruction := by
  intro s i rest hr hs ha hdec
  obtain ⟨op, c, hc, hcells⟩ := decode_cases hdec
  rcases hcells with ⟨ho, v, hcells, rfl⟩ | ⟨ho, hcells, rfl⟩ <;> cases hcells <;>
    rw [Opcode.operand_withOperand, ho]
  · refine ⟨nofun, fun _ _ ha' => ?_⟩
    rw [← State.operandFetched_opcodeFetched]
    exact step_of_fetch_run hr hs
      ((fetchInstr_of_class ha hc).trans (fetchRest_of_two_cells (s := s.opcodeFetched) ho ha'))
  · refine ⟨fun _ => ?_, nofun⟩
    exact step_of_fetch_run hr hs ((fetchInstr_of_class ha hc).trans (fetchRest_of_one_cell ho))

/-! ### Induction on the moves -/

/-- What each move keeps, every sequence of moves keeps. -/
theorem Moves.keeps {I : State → Prop} (hI : ∀ s t, Move p s t → I s → I t) (hm : Moves p s t) (hs : I s) : I t := by
  induction hm with
  | refl => exact hs
  | tail _ hmove ih => exact hI _ _ hmove ih

/-! ### A step only appends -/

/-- The later state has the same configuration and extends the record of the run (R6, R30). -/
structure ExtendsRecord (s t : State) : Prop where
  config : t.cfg = s.cfg
  trace : s.trace <+: t.trace
  sent : s.sent <+: t.sent
  draws : s.draws ≤ t.draws

theorem ExtendsRecord.refl (s : State) : ExtendsRecord s s := ⟨rfl, List.prefix_rfl, List.prefix_rfl, le_rfl⟩

theorem ExtendsRecord.trans {u : State} (h₁ : ExtendsRecord s t) (h₂ : ExtendsRecord t u) : ExtendsRecord s u :=
  ⟨h₂.config.trans h₁.config, h₁.trace.trans h₂.trace, h₁.sent.trans h₂.sent, h₁.draws.trans h₂.draws⟩

theorem Move.extendsRecord (hm : Move p s t) : ExtendsRecord s t := by
  cases hm with
  | registers pc sp ir ac x y d hd ht => subst ht; exact ⟨rfl, List.prefix_rfl, List.prefix_rfl, hd⟩
  | read a ha => exact ⟨rfl, List.prefix_rfl, List.prefix_append _ _, le_rfl⟩
  | write a v ha => exact ⟨rfl, List.prefix_rfl, List.prefix_append _ _, le_rfl⟩
  | output port v hp => exact ⟨rfl, List.prefix_append _ _, List.prefix_rfl, le_rfl⟩
  | anomaly pc w hw => exact ⟨rfl, List.prefix_append _ _, List.prefix_rfl, le_rfl⟩
  | mode m hp => exact ⟨rfl, List.prefix_rfl, List.prefix_rfl, le_rfl⟩

theorem Ending.extendsRecord (he : Ending s t) : ExtendsRecord s t := by
  cases he with
  | goesOn => exact .refl s
  | clean => exact ⟨rfl, List.prefix_append _ _, List.prefix_append _ _, le_rfl⟩
  | violation a ha => exact ⟨rfl, List.prefix_append _ _, List.prefix_append _ _, le_rfl⟩
  | outOfRange a q ha hq => exact ⟨rfl, List.prefix_rfl, List.prefix_append _ _, le_rfl⟩

theorem Runs.extendsRecord (hrun : Runs p s t) : ExtendsRecord s t := by
  obtain ⟨u, hm, he⟩ := hrun
  have hmoves : ExtendsRecord s u :=
    hm.keeps (I := ExtendsRecord s) (fun _ _ hmove hu => hu.trans hmove.extendsRecord) (.refl s)
  exact hmoves.trans he.extendsRecord

/-- Settles O50: each move and each ending extends the record, and extension is transitive. -/
theorem stepOnlyAppends : Obligations.StepOnlyAppends := by
  intro s t hstep
  obtain ⟨-, -, hrun⟩ := step_runs hstep
  obtain ⟨hcfg, ⟨es, hes⟩, ⟨qs, hqs⟩, hdraws⟩ := hrun.extendsRecord
  exact ⟨hcfg, ⟨es, hes.symm⟩, ⟨qs, hqs.symm⟩, hdraws⟩

/-! ### The mode -/

/-- A move that may not change the mode keeps it. -/
theorem Move.mode_eq (hp : ¬ p) (hm : Move p s t) : t.mode = s.mode := by
  cases hm with
  | registers pc sp ir ac x y d hd ht => rw [ht]
  | mode m hc => exact absurd hc hp
  | _ => rfl

/-- No halt changes the mode (R121, R122). -/
theorem Ending.mode_eq (he : Ending s t) : t.mode = s.mode := by
  cases he <;> rfl

theorem Runs.mode_eq (hp : ¬ p) (hrun : Runs p s t) : t.mode = s.mode := by
  obtain ⟨u, hm, he⟩ := hrun
  have hmoves : u.mode = s.mode :=
    hm.keeps (I := fun u => u.mode = s.mode) (fun _ _ hmove hu => (hmove.mode_eq hp).trans hu) rfl
  exact he.mode_eq.trans hmoves

/-- Settles O52: a step with no leave to change the mode keeps it, and only the two instructions give that leave. -/
theorem modeChangesOnlyBySystemCallAndReturn : Obligations.ModeChangesOnlyBySystemCallAndReturn := by
  intro s t hstep hne
  obtain ⟨-, -, hrun⟩ := step_runs hstep
  have hmode : ModeStep s := by
    by_contra hno
    exact hne (hrun.mode_eq hno)
  obtain ⟨c, hc, ⟨rfl, hm⟩ | ⟨rfl, hm⟩⟩ := hmode
  · exact .inl ⟨hm, hc⟩
  · exact .inr ⟨hm, hc⟩

/-! ### The invariant, by the updates it allows -/

/-- An address that may be accessed is not negative, so its cell's number is its value. -/
theorem Accessible.toNat_eq_toInt (ha : Accessible s a) : (a.toNat : Int) = a.toInt := by
  have hmsb : a.msb = false := by
    rw [BitVec.msb_eq_toInt]
    exact decide_eq_false (not_lt.2 ha.2.1)
  rw [BitVec.toInt_eq_toNat_of_msb hmsb]

/-- An access that is allowed names a cell of the Address Space. -/
theorem Accessible.toNat_lt (ha : Accessible s a) : (a.toNat : Int) < s.cfg.totalSize.toInt := by
  rw [ha.toNat_eq_toInt]
  exact ha.2.2

/-- A request other than TERMINATE. -/
theorem Consistent.record (hc : Consistent s) (hq : q ≠ .terminate) : Consistent (s.record q) :=
  { hc with terminated := by simpa [hq.symm] using hc.terminated }

/-- An event other than Shutdown, where a rule emits it. -/
theorem Consistent.emit (hc : Consistent s) (he : EventAllowed s.cfg e) (hne : e ≠ .shutdown) :
    Consistent (s.emit e) :=
  { hc with
    events := List.forall_mem_append.2 ⟨hc.events, List.forall_mem_singleton.2 he⟩
    shutdown := by simpa [hne.symm] using hc.shutdown }

/-- A write to a cell of the Address Space. -/
theorem Consistent.store (hc : Consistent s) (hn : (n : Int) < s.cfg.totalSize.toInt) :
    Consistent (s.setMem (s.mem.write n v)) :=
  { hc with
    memory := Memory.write_keeps_wf hc.memory
    inside := fun d hd => by
      rcases Memory.mem_write hd with hd | rfl
      · exact hc.inside d hd
      · exact hn }

/-- A halt that sends TERMINATE and so stops the service (R50, R120, R121). -/
theorem Consistent.terminate (hc : Consistent s) (hstop : serviceAfter (.halted h) = .stopped) :
    Consistent ((sendTerminate s).setRun (.halted h)) where
  config := hc.config
  memory := hc.memory
  inside := hc.inside
  statuses := hstop.symm
  events := List.forall_mem_append.2 ⟨hc.events, List.forall_mem_singleton.2 trivial⟩
  shutdown := iff_of_true (by simp [sendTerminate, serveTerminate]) rfl
  terminated := iff_of_true (by simp [sendTerminate, serveTerminate]) rfl

/-- A protocol error while the service serves: it was not stopped before and is failed after (R51, R122). -/
theorem Consistent.protocolHalt (hc : Consistent s) (hs : s.service = .serving) : Consistent (haltProtocol r s) :=
  { hc with
    statuses := rfl
    shutdown := iff_of_false (fun hmem => by simpa [hs] using hc.shutdown.1 hmem) nofun
    terminated := iff_of_false (fun hmem => by simpa [hs] using hc.terminated.1 hmem) nofun }

/-- A move keeps the invariant. -/
theorem Move.keeps_consistent (hm : Move p s t) (hc : Consistent s) : Consistent t := by
  cases hm with
  | registers pc sp ir ac x y d hd ht => subst ht; exact { hc with }
  | read a ha => exact hc.record nofun
  | write a v ha => exact (hc.record (q := .write a v) nofun).store ha.toNat_lt
  | output port v hp => exact hc.emit hp nofun
  | anomaly pc w hw => exact hc.emit hw nofun
  | mode m hp => exact { hc with }

/-- No move touches the service's status. -/
theorem Move.service_eq (hm : Move p s t) : t.service = s.service := by
  cases hm with
  | registers pc sp ir ac x y d hd ht => rw [ht]
  | _ => rfl

/-- An ending beside a serving service keeps the invariant. -/
theorem Ending.keeps_consistent (he : Ending s t) (hs : s.service = .serving) (hc : Consistent s) : Consistent t := by
  cases he with
  | goesOn => exact hc
  | clean => exact hc.terminate rfl
  | violation a ha => exact hc.terminate (h := .privilegeViolation a) rfl
  | outOfRange a q ha hq =>
    have hne : q ≠ .terminate := by rcases hq with rfl | ⟨v, rfl⟩ <;> nofun
    exact (hc.record hne).protocolHalt hs

/-- Until its ending, a step that began so is in a consistent state beside a serving service. -/
theorem Moves.keeps_consistent (hm : Moves p s t) (hs : s.service = .serving) (hc : Consistent s) :
    t.service = .serving ∧ Consistent t := by
  refine hm.keeps (I := fun u => u.service = .serving ∧ Consistent u) ?_ ⟨hs, hc⟩
  rintro u w hmove ⟨hu, hcu⟩
  exact ⟨hmove.service_eq.trans hu, hmove.keeps_consistent hcu⟩

/-- Settles O49: the step's moves keep the invariant and the serving service, beside which its ending keeps it too. -/
theorem stepKeepsConsistent : Obligations.StepKeepsConsistent := by
  intro s t hc hstep
  obtain ⟨-, hs, u, hm, he⟩ := step_runs hstep
  obtain ⟨hsu, hcu⟩ := hm.keeps_consistent hs hc
  exact he.keeps_consistent hsu hcu

end Sys2Proof.Machine

/-! The Address Space (spec/20_memory.md): what the Memory Service answers and stores, the guarded access, that memory
is the replay of the WRITE requests, and that USER mode neither changes nor learns anything of the system region. -/

namespace Sys2Proof.Machine

variable {p : Prop} {s s' t t' u : State} {a v : Word} {m m' m'' : Memory} {q : Request} {k : Mode} {α β : Type}

/-! ### The Memory Service -/

theorem inRange_eq_false (h : a.toInt < 0 ∨ s.cfg.totalSize.toInt ≤ a.toInt) : inRange s a = false :=
  Bool.eq_false_iff.2 fun hr => by
    have hin := inRange_iff.1 hr
    omega

theorem serveRead_of_inRange (h : inRange s a = true) : serveRead a s = .ok (s.mem.read a.toNat) s := if_pos h

theorem serveRead_of_not_inRange (h : inRange s a = false) :
    serveRead a s = .halt (haltProtocol (.addressOutOfRange a) s) := by
  simp [serveRead, h]

theorem serveWrite_of_inRange (h : inRange s a = true) :
    serveWrite a v s = .ok () (s.setMem (s.mem.write a.toNat v)) := if_pos h

theorem serveWrite_of_not_inRange (h : inRange s a = false) :
    serveWrite a v s = .halt (haltProtocol (.addressOutOfRange a) s) := by
  simp [serveWrite, h]

/-- Settles O37: the two branches of the range check. -/
theorem serviceAnswersRead : Obligations.ServiceAnswersRead := fun _ _ =>
  ⟨fun hin => serveRead_of_inRange (inRange_iff.2 hin),
    fun hout => serveRead_of_not_inRange (inRange_eq_false hout)⟩

/-- Settles O38: the two branches of the range check, and read after write. -/
theorem serviceStoresWrite : Obligations.ServiceStoresWrite := by
  refine fun a v s hwf => ⟨fun hin => ?_, fun hout => serveWrite_of_not_inRange (inRange_eq_false hout)⟩
  exact ⟨_, serveWrite_of_inRange (inRange_iff.2 hin), rfl, Memory.read_write_same hwf _ v,
    fun b hne => Memory.read_write_other hwf hne⟩

/-- With distinct codes the discriminant of a serialised request selects its kind. -/
theorem serveRaw_serialise {codes : MsgCode} (hrw : codes.read ≠ codes.write) (hrt : codes.read ≠ codes.terminate)
    (hwt : codes.write ≠ codes.terminate) (r : Request) (s : State) :
    serveRaw codes (serialise codes r) s = serve r s := by
  cases r with
  | read a => simp [serveRaw, serialise]
  | write a v => simp [serveRaw, serialise, hrw.symm]
  | terminate => simp [serveRaw, serialise, hrt.symm, hwt.symm]

/-- Settles O39: an unknown discriminant falls through the three tests, and each known one meets its own. -/
theorem serialisedRequestsAreServedOrFail : Obligations.SerialisedRequestsAreServedOrFail := by
  refine fun codes q r s => ⟨fun hr hw ht => ?_, fun hrw hrt hwt => serveRaw_serialise hrw hrt hwt r s⟩
  rw [serveRaw, if_neg hr, if_neg hw, if_neg ht]
  rfl

/-! ### The guarded access -/

/-- Settles O36: each kind of address, for a read and for a write. -/
theorem guardedAccessChecksFirst : Obligations.GuardedAccessChecksFirst := fun _ _ _ =>
  ⟨fun hv => ⟨memRead_violating hv, memWrite_violating hv⟩,
    fun ho => ⟨memRead_outOfRange ho, memWrite_outOfRange ho⟩,
    fun ha => ⟨memRead_accessible ha, memWrite_accessible ha⟩⟩

/-- Settles O17: the store leaves PC, so the fetch reads the cell that it replaced. -/
theorem storeIsSeenByNextFetch : Obligations.StoreIsSeenByNextFetch := by
  intro s hwf ha
  let t := (s.record (.write s.pc s.ac)).setMem (s.mem.write s.pc.toNat s.ac)
  have hstore : exec (.storeAddr s.pc) s = .next t := congrArg Eng.finish (memWrite_accessible ha)
  have hread : t.mem.read t.pc.toNat = s.ac := Memory.read_write_same hwf _ _
  have hfetch : fetchOpcode t = .ok (t.mem.read t.pc.toNat) t.opcodeFetched := fetchOpcode_accessible ha
  exact ⟨t, t.opcodeFetched, hstore, hread ▸ hfetch, hread⟩

/-! ### Memory is the replay of the WRITE requests -/

/-- Between the two states some requests were sent, and the memory is the earlier one with their writes applied. -/
def ReplaysWrites (s t : State) : Prop :=
  ∃ qs, t.sent = s.sent ++ qs ∧ t.mem = qs.foldl (applyRequest s.cfg) s.mem

theorem applyRequest_write (ha : Accessible s a) : applyRequest s.cfg m (.write a v) = m.write a.toNat v := if_pos ha.2

/-- A request that fails the range check stores nothing (R49). -/
theorem applyRequest_outOfRange (ho : OutOfRange s a) (hq : q = .read a ∨ ∃ v, q = .write a v) :
    applyRequest s.cfg m q = m := by
  obtain ⟨-, hout⟩ := ho
  rcases hq with rfl | ⟨v, rfl⟩
  · rfl
  · exact if_neg (by omega)

theorem ReplaysWrites.of_no_request (hsent : t.sent = s.sent) (hmem : t.mem = s.mem) : ReplaysWrites s t :=
  ⟨[], by simp [hsent], hmem⟩

theorem ReplaysWrites.of_request (q : Request) (hsent : t.sent = s.sent ++ [q])
    (hmem : t.mem = applyRequest s.cfg s.mem q) : ReplaysWrites s t :=
  ⟨[q], hsent, hmem⟩

theorem ReplaysWrites.trans (h₁ : ReplaysWrites s t) (hcfg : t.cfg = s.cfg) (h₂ : ReplaysWrites t u) :
    ReplaysWrites s u := by
  obtain ⟨qs₁, hsent₁, hmem₁⟩ := h₁
  obtain ⟨qs₂, hsent₂, hmem₂⟩ := h₂
  refine ⟨qs₁ ++ qs₂, ?_, ?_⟩
  · rw [hsent₂, hsent₁, List.append_assoc]
  · rw [hmem₂, hmem₁, hcfg, List.foldl_append]

theorem Move.replaysWrites (hm : Move p s t) : ReplaysWrites s t := by
  cases hm with
  | registers pc sp ir ac x y d hd ht => subst ht; exact .of_no_request rfl rfl
  | read a ha => exact .of_request (.read a) rfl rfl
  | write a v ha => exact .of_request (.write a v) rfl (applyRequest_write ha).symm
  | output port v hp => exact .of_no_request rfl rfl
  | anomaly pc w hw => exact .of_no_request rfl rfl
  | mode k hp => exact .of_no_request rfl rfl

theorem Ending.replaysWrites (he : Ending s t) : ReplaysWrites s t := by
  cases he with
  | goesOn => exact .of_no_request rfl rfl
  | clean => exact .of_request .terminate rfl rfl
  | violation a hv => exact .of_request .terminate rfl rfl
  | outOfRange a q ho hq => exact .of_request q rfl (applyRequest_outOfRange ho hq).symm

theorem Moves.replaysWrites (hm : Moves p s t) : t.cfg = s.cfg ∧ ReplaysWrites s t := by
  refine hm.keeps (I := fun u => u.cfg = s.cfg ∧ ReplaysWrites s u) ?_ ⟨rfl, .of_no_request rfl rfl⟩
  rintro u w hmove ⟨hcfg, hu⟩
  exact ⟨hmove.extendsRecord.config.trans hcfg, hu.trans hcfg hmove.replaysWrites⟩

/-- Settles O51: each move and each ending applies the request it sends, if any, and replays compose. -/
theorem memoryIsReplayOfWrites : Obligations.MemoryIsReplayOfWrites := by
  intro s t hstep
  obtain ⟨-, -, u, hm, he⟩ := step_runs hstep
  obtain ⟨hcfg, hu⟩ := hm.replaysWrites
  exact hu.trans hcfg he.replaysWrites

/-! ### Memories that agree on some cells -/

/-- The second memory is in canonical form and holds the words of the first in every cell of `P`. -/
structure Memory.KeepsCells (P : Nat → Prop) (m m' : Memory) : Prop where
  canonical : m'.wf = true
  cells : ∀ n, P n → m'.read n = m.read n

namespace Memory.KeepsCells

variable {P : Nat → Prop} {b : Nat}

theorem refl (hwf : m.wf = true) : Memory.KeepsCells P m m := ⟨hwf, fun _ _ => rfl⟩

theorem trans (h₁ : Memory.KeepsCells P m m') (h₂ : Memory.KeepsCells P m' m'') : Memory.KeepsCells P m m'' :=
  ⟨h₂.canonical, fun n hn => (h₂.cells n hn).trans (h₁.cells n hn)⟩

/-- A write to a cell outside `P`. -/
theorem write (hwf : m.wf = true) (hb : ¬ P b) : Memory.KeepsCells P m (m.write b v) :=
  ⟨Memory.write_keeps_wf hwf, fun _ hn => Memory.read_write_other hwf fun heq => hb (heq ▸ hn)⟩

/-- The same write in both memories, to any cell. -/
theorem write_both (hwf : m.wf = true) (h : Memory.KeepsCells P m m') :
    Memory.KeepsCells P (m.write b v) (m'.write b v) where
  canonical := Memory.write_keeps_wf h.canonical
  cells n hn := by rw [Memory.read_write h.canonical, Memory.read_write hwf, h.cells n hn]

end Memory.KeepsCells

/-! ### USER mode leaves the system region -/

/-- The cells of the system region (R36), and those beyond the Address Space. -/
def Config.SystemCell (c : Config) (n : Nat) : Prop := c.userLimit.toInt ≤ (n : Int)

/-- The cells of the user region (R36). -/
def Config.UserCell (c : Config) (n : Nat) : Prop := (n : Int) < c.userLimit.toInt

/-- What USER mode may access is a user cell (R44, R45). -/
theorem Accessible.userCell (ha : Accessible s a) (hmode : s.mode = .user) : Config.UserCell s.cfg a.toNat := by
  rw [Config.UserCell, ha.toNat_eq_toInt]
  exact ha.1 hmode

theorem Config.UserCell.not_systemCell {c : Config} {n : Nat} (h : Config.UserCell c n) : ¬ Config.SystemCell c n :=
  not_le.2 h

theorem Move.keeps_systemCells (hm : Move p s t) (hmode : s.mode = .user) (hwf : s.mem.wf = true) :
    Memory.KeepsCells (Config.SystemCell s.cfg) s.mem t.mem := by
  cases hm with
  | registers pc sp ir ac x y d hd ht => rw [ht]; exact .refl hwf
  | write a v ha => exact .write hwf (ha.userCell hmode).not_systemCell
  | _ => exact .refl hwf

/-- Moves that may not change the mode stay in USER mode and leave the system region. -/
theorem Moves.keeps_systemCells (hp : ¬ p) (hm : Moves p s t) (hmode : s.mode = .user) (hwf : s.mem.wf = true) :
    t.mode = .user ∧ t.cfg = s.cfg ∧ Memory.KeepsCells (Config.SystemCell s.cfg) s.mem t.mem := by
  refine hm.keeps (I := fun u => u.mode = .user ∧ u.cfg = s.cfg ∧
    Memory.KeepsCells (Config.SystemCell s.cfg) s.mem u.mem) ?_ ⟨hmode, rfl, .refl hwf⟩
  rintro u w hmove ⟨hu, hcfg, hcells⟩
  have hlast := hmove.keeps_systemCells hu hcells.canonical
  rw [hcfg] at hlast
  exact ⟨(hmove.mode_eq hp).trans hu, hmove.extendsRecord.config.trans hcfg, hcells.trans hlast⟩

/-- No ending stores anything (R49, R50, R121). -/
theorem Ending.mem_eq (he : Ending s t) : t.mem = s.mem := by
  cases he <;> rfl

theorem Runs.keeps_systemCells (hp : ¬ p) (hrun : Runs p s t) (hmode : s.mode = .user) (hwf : s.mem.wf = true) :
    Memory.KeepsCells (Config.SystemCell s.cfg) s.mem t.mem := by
  obtain ⟨u, hm, he⟩ := hrun
  obtain ⟨-, -, hcells⟩ := hm.keeps_systemCells hp hmode hwf
  rwa [he.mem_eq]

/-- A push writes no cell but the one below SP, in every case. -/
theorem pushWord_leads {P : Nat → Prop} (v : Word) (hs : Memory.KeepsCells P m s.mem)
    (hP : ¬ P (s.sp - 1#32).toNat) :
    (pushWord v s).Leads (fun _ t => t.sp = s.sp - 1#32 ∧ Memory.KeepsCells P m t.mem)
      (fun t => Memory.KeepsCells P m t.mem) := by
  rcases pushWord_cases v s with ⟨-, e⟩ | ⟨-, e⟩ | ⟨-, e⟩ <;> rw [e]
  · exact ⟨rfl, hs.trans (.write hs.canonical hP)⟩
  · exact hs
  · exact hs

/-- The cells other than Int's two saves (R104). -/
def Config.NotSaved (c : Config) (n : Nat) : Prop :=
  n ≠ (c.sysStackTop - 1#32).toNat ∧ n ≠ (c.sysStackTop - 2#32).toNat

/-- Trap entry writes no cell but its two saves, whether or not it completes. -/
theorem enterHandler_leads (hwf : s.mem.wf = true) :
    (enterHandler s).Leads (fun _ t => Memory.KeepsCells (Config.NotSaved s.cfg) s.mem t.mem)
      (fun t => Memory.KeepsCells (Config.NotSaved s.cfg) s.mem t.mem) := by
  have hsecond : s.cfg.sysStackTop - 1#32 - 1#32 = s.cfg.sysStackTop - 2#32 := by bv_omega
  refine (pushWord_leads (s := (s.setMode .kernel).setSp s.cfg.sysStackTop) s.sp (.refl hwf)
    fun hn => hn.1 rfl).bind fun _ t ⟨hsp, ht⟩ => ?_
  refine (pushWord_leads t.pc ht ?_).bind fun _ u ⟨_, hu⟩ => hu
  rw [hsp, State.setSp_sp, hsecond]
  exact fun hn => hn.2 rfl

/-- `Int` writes no cell but its two saves (R104). -/
theorem execInt_keeps (hwf : s.mem.wf = true) (hexec : exec .int s = .next t) :
    Memory.KeepsCells (Config.NotSaved s.cfg) s.mem t.mem := by
  cases hmode : s.mode with
  | user =>
    obtain ⟨u, hu, hcells⟩ := (enterHandler_leads hwf).finish fun _ _ h => h
    simp only [exec, execInt, hmode, hu] at hexec
    cases hexec
    exact hcells
  | kernel =>
    simp only [exec, execInt, hmode] at hexec
    cases hexec
    exact .refl hwf

/-- An instruction other than `Int` leaves the system region in USER mode: the other one that changes the mode, `IRet`,
does so in KERNEL mode only. -/
theorem exec_keeps_systemCells {i : Instr} (hi : i.opcode ≠ .int) (hmode : s.mode = .user) (hwf : s.mem.wf = true)
    (hexec : exec i s = .next t) : Memory.KeepsCells (Config.SystemCell s.cfg) s.mem t.mem := by
  obtain ⟨u, hu, hrun⟩ := exec_runs i s
  cases hu.symm.trans hexec
  refine hrun.keeps_systemCells ?_ hmode hwf
  rintro (⟨hint, -⟩ | ⟨-, hkernel⟩)
  · exact hi hint
  · exact absurd (hmode.symm.trans hkernel) nofun

theorem Instr.eq_int_of_opcode {i : Instr} (h : i.opcode = .int) : i = .int := by
  cases i <;> cases h
  rfl

/-- A step is its fetch, and the meaning of the instruction if the fetch gives one. -/
theorem step_eq_next (hstep : step s = .next t) :
    fetchInstr s = .over t ∨ ∃ i u, fetchInstr s = .run i u ∧ exec i u = .next t := by
  obtain ⟨hr, hs, -⟩ := step_runs hstep
  rcases hf : fetchInstr s with ⟨i, u⟩ | u
  · exact .inr ⟨i, u, rfl, (step_of_fetch_run hr hs hf).symm.trans hstep⟩
  · cases (step_of_fetch_over hr hs hf).symm.trans hstep
    exact .inl rfl

/-- Settles O53: the fetch leaves the system region, then an instruction other than Int does too, and Int writes no cell
but its saves. -/
theorem userStepLeavesSystemRegion : Obligations.UserStepLeavesSystemRegion := by
  intro s t hwf hmode hstep n hn hne
  rcases fetchInstr_cases s with ⟨u, hu, hrun⟩ | ⟨i, u, hu, hmoves, -, -, hclass⟩ <;>
    rcases step_eq_next hstep with hf | ⟨j, w, hf, hexec⟩ <;> cases hu.symm.trans hf
  · exact absurd (((hrun False).keeps_systemCells not_false hmode hwf).cells n hn) hne
  · obtain ⟨humode, hcfg, hfetch⟩ := (hmoves False).keeps_systemCells not_false hmode hwf
    by_cases hi : i.opcode = .int
    · refine ⟨hi ▸ hclass, ?_⟩
      rw [Instr.eq_int_of_opcode hi] at hexec
      by_contra hno
      have hcell := (execInt_keeps hfetch.canonical hexec).cells n (by rw [hcfg]; exact not_or.1 hno)
      exact hne (hcell.trans (hfetch.cells n hn))
    · have hcell := (exec_keeps_systemCells hi humode hfetch.canonical hexec).cells n (by rw [hcfg]; exact hn)
      exact absurd (hcell.trans (hfetch.cells n hn)) hne


/-! ### USER mode learns nothing of the system region

Two runs of one operation, from states alike but for system cells, side by side: while the mode is USER every word read
comes from a user cell, so both runs go the same way. -/

/-- Canonical memories, and states alike but for system cells. -/
structure UserAlike (s s' : State) : Prop where
  canonical : s.mem.wf = true
  state : s' = { s with mem := s'.mem }
  memory : Memory.KeepsCells (Config.UserCell s.cfg) s.mem s'.mem

theorem userAlike_iff : UserAlike s s' ↔ s.mem.wf = true ∧ s'.mem.wf = true ∧ SameForUser s s' :=
  ⟨fun ⟨hwf, hstate, hwf', hcells⟩ => ⟨hwf, hwf', hstate, hcells⟩,
    fun ⟨hwf, hwf', hstate, hcells⟩ => ⟨hwf, hstate, hwf', hcells⟩⟩

/-- An update of the state that does not look at the memory, and leaves it and the configuration. Each update of the
model is seen to be one by unfolding it, so that `{}` proves it. -/
structure IgnoresMemory (f : State → State) : Prop where
  commutes : ∀ u m, f (u.setMem m) = (f u).setMem m := by intros; rfl
  mem_eq : ∀ u, (f u).mem = u.mem := by intros; rfl
  cfg_eq : ∀ u, (f u).cfg = u.cfg := by intros; rfl

/-- Two results that are next states alike but for system cells. -/
def NextAlike (r r' : Result) : Prop := ∃ t t', r = .next t ∧ r' = .next t' ∧ UserAlike t t'

namespace UserAlike

/-- The second state is the first with other contents of the Address Space. -/
theorem exists_mem (h : UserAlike s s') :
    ∃ m', s' = s.setMem m' ∧ Memory.KeepsCells (Config.UserCell s.cfg) s.mem m' :=
  ⟨s'.mem, h.state, h.memory⟩

theorem mode_eq (h : UserAlike s s') : s'.mode = s.mode := by rw [h.state]
theorem cfg_eq (h : UserAlike s s') : s'.cfg = s.cfg := by rw [h.state]
theorem pc_eq (h : UserAlike s s') : s'.pc = s.pc := by rw [h.state]
theorem run_eq (h : UserAlike s s') : s'.run = s.run := by rw [h.state]
theorem service_eq (h : UserAlike s s') : s'.service = s.service := by rw [h.state]

theorem acIsZero_eq (h : UserAlike s s') : acIsZero s' = acIsZero s := by rw [h.state]; rfl

theorem map {f : State → State} (h : UserAlike s s') (hf : IgnoresMemory f) : UserAlike (f s) (f s') := by
  obtain ⟨m', rfl, hm⟩ := h.exists_mem
  refine ⟨?_, ?_, ?_⟩
  · rw [hf.mem_eq]
    exact h.canonical
  · rw [hf.commutes]
    rfl
  · rw [hf.commutes, hf.mem_eq, hf.cfg_eq]
    exact hm

theorem setPc (h : UserAlike s s') (v : Word) : UserAlike (s.setPc v) (s'.setPc v) :=
  h.map (f := (·.setPc v)) {}

theorem next (h : UserAlike s s') : NextAlike (.next s) (.next s') := ⟨s, s', rfl, rfl, h⟩

end UserAlike

/-- Two runs of some statements go the same way: both complete with one value, in mode `k`, or both halt. -/
inductive Eng.UserAlike (k : Mode) : Eng α → Eng α → Prop
  | ok (v : α) {t t' : State} (hmode : t.mode = k) (h : Machine.UserAlike t t') : Eng.UserAlike k (.ok v t) (.ok v t')
  | halt {t t' : State} (h : Machine.UserAlike t t') : Eng.UserAlike k (.halt t) (.halt t')

theorem Eng.UserAlike.bind {k' : Mode} {e e' : Eng α} {f f' : α → State → Eng β} (he : Eng.UserAlike k e e')
    (hf : ∀ v t t', t.mode = k → Machine.UserAlike t t' → Eng.UserAlike k' (f v t) (f' v t')) :
    Eng.UserAlike k' (e.bind f) (e'.bind f') := by
  cases he with
  | ok v hmode h => exact hf v _ _ hmode h
  | halt h => exact .halt h

theorem Eng.UserAlike.finish {e e' : Eng Unit} (he : Eng.UserAlike k e e') : NextAlike e.finish e'.finish := by
  cases he with
  | ok _ _ h => exact h.next
  | halt h => exact h.next

theorem afterViolation_userAlike (a : Word) (h : UserAlike s s') :
    UserAlike (afterViolation a s) (afterViolation a s') :=
  h.map (f := afterViolation a) {}

theorem afterOutOfRange_userAlike (q : Request) (a : Word) (h : UserAlike s s') :
    UserAlike (afterOutOfRange q a s) (afterOutOfRange q a s') :=
  h.map (f := afterOutOfRange q a) {}

/-- A USER read gives the same word in both runs: what it may read is a user cell (R44, R45). -/
theorem memRead_userAlike (a : Word) (h : UserAlike s s') (hmode : s.mode = .user) :
    Eng.UserAlike .user (memRead a s) (memRead a s') := by
  obtain ⟨m', rfl, hm⟩ := h.exists_mem
  rcases memRead_cases a s with ⟨ha, e⟩ | ⟨hv, e⟩ | ⟨ho, e⟩ <;> rw [e]
  · rw [memRead_accessible (s := s.setMem m') ha, State.setMem_mem, hm.cells _ (ha.userCell hmode)]
    exact .ok _ hmode (h.map (f := (·.record (.read a))) {})
  · rw [memRead_violating (s := s.setMem m') hv]
    exact .halt (afterViolation_userAlike a h)
  · rw [memRead_outOfRange (s := s.setMem m') ho]
    exact .halt (afterOutOfRange_userAlike _ a h)

/-- A write stores the same word in the same cell of both memories, in either mode. -/
theorem memWrite_userAlike (a v : Word) (h : UserAlike s s') (hmode : s.mode = k) :
    Eng.UserAlike k (memWrite a v s) (memWrite a v s') := by
  obtain ⟨m', rfl, hm⟩ := h.exists_mem
  rcases memWrite_cases a v s with ⟨ha, e⟩ | ⟨hv, e⟩ | ⟨ho, e⟩ <;> rw [e]
  · rw [memWrite_accessible (s := s.setMem m') ha]
    exact .ok _ hmode ⟨Memory.write_keeps_wf h.canonical, rfl, hm.write_both h.canonical⟩
  · rw [memWrite_violating (s := s.setMem m') hv]
    exact .halt (afterViolation_userAlike a h)
  · rw [memWrite_outOfRange (s := s.setMem m') ho]
    exact .halt (afterOutOfRange_userAlike _ a h)

/-! #### The shared operations -/

theorem pushWord_userAlike (v : Word) (h : UserAlike s s') (hmode : s.mode = k) :
    Eng.UserAlike k (pushWord v s) (pushWord v s') := by
  obtain ⟨m', rfl, -⟩ := h.exists_mem
  exact memWrite_userAlike _ v (h.map (f := fun u => u.setSp (u.sp - 1#32)) {}) hmode

/-- Statements, and then an update that neither looks at the memory nor changes it or the mode. -/
theorem Eng.UserAlike.then_update {e e' : Eng α} {f : α → State → State} {g : α → β}
    (he : Eng.UserAlike k e e') (hf : ∀ v, IgnoresMemory (f v)) (hmode : ∀ v u, (f v u).mode = u.mode) :
    Eng.UserAlike k (e.bind fun v u => .ok (g v) (f v u)) (e'.bind fun v u => .ok (g v) (f v u)) :=
  he.bind fun v t _ ht h => .ok _ ((hmode v t).trans ht) (h.map (hf v))

theorem popWord_userAlike (h : UserAlike s s') (hmode : s.mode = .user) :
    Eng.UserAlike .user (popWord s) (popWord s') := by
  obtain ⟨m', rfl, -⟩ := h.exists_mem
  exact (memRead_userAlike s.sp h hmode).then_update (fun _ => {}) fun _ _ => rfl

theorem loadFrom_userAlike (a : Word) (h : UserAlike s s') (hmode : s.mode = .user) :
    Eng.UserAlike .user (loadFrom a s) (loadFrom a s') :=
  (memRead_userAlike a h hmode).then_update (fun _ => {}) fun _ _ => rfl

theorem fetchOpcode_userAlike (h : UserAlike s s') (hmode : s.mode = .user) :
    Eng.UserAlike .user (fetchOpcode s) (fetchOpcode s') := by
  obtain ⟨m', rfl, -⟩ := h.exists_mem
  exact (memRead_userAlike s.pc h hmode).then_update (fun _ => {}) fun _ _ => rfl

theorem fetchOperand_userAlike (h : UserAlike s s') (hmode : s.mode = .user) :
    Eng.UserAlike .user (fetchOperand s) (fetchOperand s') := by
  obtain ⟨m', rfl, -⟩ := h.exists_mem
  exact (memRead_userAlike s.pc h hmode).then_update (fun _ => {}) fun _ _ => rfl

/-- Trap entry only writes, so it looks at no memory. -/
theorem enterHandler_userAlike (h : UserAlike s s') :
    Eng.UserAlike .kernel (enterHandler s) (enterHandler s') := by
  obtain ⟨m', rfl, -⟩ := h.exists_mem
  have hentry := h.map (f := fun u => (u.setMode .kernel).setSp u.cfg.sysStackTop) {}
  refine (pushWord_userAlike s.sp hentry rfl).bind fun _ t t' ht h => ?_
  rw [h.pc_eq]
  exact (pushWord_userAlike t.pc h ht).then_update (fun _ => {}) fun _ _ => rfl

theorem emitPort_userAlike (port : Word) (h : UserAlike s s') : UserAlike (emitPort port s) (emitPort port s') := by
  unfold emitPort
  split
  · exact h.map (f := fun u => u.emit (.output 1#32 u.ac)) {}
  · split
    · exact h.map (f := fun u => u.emit (.output 2#32 u.ac)) {}
    · exact h

/-! #### The meanings, the fetch and the step -/

/-- An instruction that is one update of registers, of the trace or of the run's end. -/
theorem exec_userAlike_of_update {i : Instr} {f : State → State} (hexec : ∀ u, exec i u = .next (f u))
    (hf : IgnoresMemory f) (h : UserAlike s s') : NextAlike (exec i s) (exec i s') := by
  rw [hexec, hexec]
  exact (h.map hf).next

/-- A meaning in USER mode: by its accesses where it has any, and `IRet` is a no-op. -/
theorem exec_userAlike (i : Instr) (h : UserAlike s s') (hmode : s.mode = .user) :
    NextAlike (exec i s) (exec i s') := by
  have hmode' : s'.mode = .user := h.mode_eq.trans hmode
  cases i
  case loadAddr a => exact (loadFrom_userAlike a h hmode).finish
  case loadIndAddr a =>
    exact ((memRead_userAlike a h hmode).bind fun p _ _ ht h => loadFrom_userAlike p h ht).finish
  case loadIdxXAddr a =>
    obtain ⟨m', rfl, -⟩ := h.exists_mem
    exact (loadFrom_userAlike (indexedX s a) h hmode).finish
  case loadIdxYAddr a =>
    obtain ⟨m', rfl, -⟩ := h.exists_mem
    exact (loadFrom_userAlike (indexedY s a) h hmode).finish
  case loadSpX =>
    obtain ⟨m', rfl, -⟩ := h.exists_mem
    exact (loadFrom_userAlike (stackIndexed s) h hmode).finish
  case storeAddr a =>
    obtain ⟨m', rfl, -⟩ := h.exists_mem
    exact (memWrite_userAlike a s.ac h hmode).finish
  case putPort port => exact (emitPort_userAlike port h).next
  case jumpIfEqual a =>
    simp only [exec, execJumpIfEqual, h.acIsZero_eq]
    split
    · exact (h.setPc a).next
    · exact h.next
  case jumpIfNotEqual a =>
    simp only [exec, execJumpIfNotEqual, h.acIsZero_eq]
    split
    · exact h.next
    · exact (h.setPc a).next
  case callAddr a =>
    obtain ⟨m', rfl, -⟩ := h.exists_mem
    exact Eng.UserAlike.finish ((pushWord_userAlike s.pc h hmode).then_update (f := fun _ => (·.setPc a))
      (fun _ => {}) fun _ _ => rfl)
  case ret =>
    exact Eng.UserAlike.finish ((popWord_userAlike h hmode).then_update (f := fun v => (·.setPc v))
      (fun _ => {}) fun _ _ => rfl)
  case push =>
    obtain ⟨m', rfl, -⟩ := h.exists_mem
    exact (pushWord_userAlike s.ac h hmode).finish
  case pop =>
    exact Eng.UserAlike.finish ((popWord_userAlike h hmode).then_update (f := fun v => (·.setAc v))
      (fun _ => {}) fun _ _ => rfl)
  case int =>
    simp only [exec, execInt, hmode, hmode']
    exact (enterHandler_userAlike h).finish
  case iRet =>
    simp only [exec, execIRet, hmode, hmode']
    exact h.next
  all_goals exact exec_userAlike_of_update (fun _ => rfl) {} h

/-- Two fetches that go the same way: both give one instruction, in USER mode, or both end the step. -/
inductive Fetched.UserAlike : Fetched → Fetched → Prop
  | run (i : Instr) {t t' : State} (hmode : t.mode = .user) (h : Machine.UserAlike t t') :
      Fetched.UserAlike (.run i t) (.run i t')
  | over {t t' : State} (h : Machine.UserAlike t t') : Fetched.UserAlike (.over t) (.over t')

theorem fetchRest_userAlike (c : Opcode) (h : UserAlike s s') (hmode : s.mode = .user) :
    Fetched.UserAlike (fetchRest c s) (fetchRest c s') := by
  have hoperand := fetchOperand_userAlike h hmode
  unfold fetchRest
  split
  · generalize fetchOperand s = e, fetchOperand s' = e' at hoperand
    cases hoperand with
    | ok v ht h => exact .run _ ht h
    | halt h => exact .over h
  · exact .run _ hmode h

theorem fetchInstr_userAlike (h : UserAlike s s') (hmode : s.mode = .user) :
    Fetched.UserAlike (fetchInstr s) (fetchInstr s') := by
  have hopcode := fetchOpcode_userAlike h hmode
  unfold fetchInstr
  rw [h.pc_eq]
  generalize fetchOpcode s = e, fetchOpcode s' = e' at hopcode
  cases hopcode with
  | halt h => exact .over h
  | @ok op t t' ht h =>
    simp only [h.cfg_eq]
    cases t.cfg.opcodeMap.classOf op with
    | none => exact .over (h.map (f := malformed s.pc) {})
    | some c => exact fetchRest_userAlike c h ht

/-- A step in USER mode (R44, R45). -/
theorem step_userAlike (h : UserAlike s s') (hmode : s.mode = .user) (hr : s.run = .running)
    (hs : s.service = .serving) : NextAlike (step s) (step s') := by
  have hr' : s'.run = .running := h.run_eq.trans hr
  have hs' : s'.service = .serving := h.service_eq.trans hs
  have hfetch := fetchInstr_userAlike h hmode
  generalize hf : fetchInstr s = r, hf' : fetchInstr s' = r' at hfetch
  obtain ⟨i, ht, h⟩ | h := hfetch
  · rw [step_of_fetch_run hr hs hf, step_of_fetch_run hr' hs' hf']
    exact exec_userAlike i h ht
  · rw [step_of_fetch_over hr hs hf, step_of_fetch_over hr' hs' hf']
    exact h.next

/-- Settles O54: the fetch and the meaning go the same way in both states, since USER mode reads only user cells. -/
theorem userStepLearnsNothingOfSystemRegion : Obligations.UserStepLearnsNothingOfSystemRegion := by
  intro s s' t hwf hwf' hmode hsame hstep
  obtain ⟨hr, hs, -⟩ := step_runs hstep
  obtain ⟨u, u', hu, hu', h⟩ := step_userAlike (userAlike_iff.2 ⟨hwf, hwf', hsame⟩) hmode hr hs
  cases hu.symm.trans hstep
  obtain ⟨-, -, hsame'⟩ := userAlike_iff.1 h
  exact ⟨u', hu', hsame'⟩

end Sys2Proof.Machine

/-! The encoding of instructions (spec/30_encoding.md): the decoder and the encoder are inverse to each other under any
injective map, which words the default map leaves without a class, and an operand fetch that halts. -/

namespace Sys2Proof.Laws

/-- Every instruction is its class with its operand (R60, R61), from the statements made per instruction. -/
theorem EncodingParts.statement (i : Instr) : EncodingParts.Statement i :=
  match i with
  | .loadVal v => loadVal v
  | .loadAddr a => loadAddr a
  | .loadIndAddr a => loadIndAddr a
  | .loadIdxXAddr a => loadIdxXAddr a
  | .loadIdxYAddr a => loadIdxYAddr a
  | .loadSpX => loadSpX
  | .storeAddr a => storeAddr a
  | .get => get
  | .putPort p => putPort p
  | .addX => addX
  | .addY => addY
  | .subX => subX
  | .subY => subY
  | .copyToX => copyToX
  | .copyFromX => copyFromX
  | .copyToY => copyToY
  | .copyFromY => copyFromY
  | .copyToSp => copyToSp
  | .copyFromSp => copyFromSp
  | .jumpAddr a => jumpAddr a
  | .jumpIfEqual a => jumpIfEqual a
  | .jumpIfNotEqual a => jumpIfNotEqual a
  | .callAddr a => callAddr a
  | .ret => ret
  | .incX => incX
  | .decX => decX
  | .push => push
  | .pop => pop
  | .int => int
  | .iRet => iRet
  | .endRun => endRun

end Sys2Proof.Laws

namespace Sys2Proof

variable {m : OpcodeMap} {c : Opcode} {i : Instr} {v w : Word} {rest : List Word}

/-! ### The cases of the decoder and of the encoder -/

theorem decode_of_no_class (hc : m.classOf w = none) : decode m (w :: rest) = .error (.malformedOpcode w) := by
  simp only [decode, hc]

theorem decode_of_one_cell (hc : m.classOf w = some c) (ho : c.hasOperand = false) :
    decode m (w :: rest) = .ok (c.withOperand 0, rest) := by
  simp [decode, hc, ho]

theorem decode_of_two_cells (hc : m.classOf w = some c) (ho : c.hasOperand = true) :
    decode m (w :: v :: rest) = .ok (c.withOperand v, rest) := by
  simp only [decode, hc, ho, if_true]

theorem encode_of_operand_eq_none (hi : i.operand = none) : encode m i = [m.numberOf i.opcode] := by
  rw [encode, hi, Option.toList_none]

theorem encode_of_operand_eq_some (hi : i.operand = some v) : encode m i = [m.numberOf i.opcode, v] := by
  rw [encode, hi, Option.toList_some]

/-! ### Decoding and encoding are inverse to each other -/

/-- Settles O1: an injective map gives the class back from its number, and the class with the operand cell is the
instruction. -/
theorem decodeOfEncode : Obligations.DecodeOfEncode := by
  intro m hinj i rest
  have hclass := OpcodeMap.classOf_numberOf hinj i.opcode
  obtain ⟨hparts, hcells, -⟩ := Laws.EncodingParts.statement i
  cases hi : i.operand with
  | none =>
    rw [hi, Option.getD_none] at hparts
    rw [hi, Option.isSome_none] at hcells
    rw [encode_of_operand_eq_none hi, List.singleton_append, decode_of_one_cell hclass hcells.symm, hparts]
  | some v =>
    rw [hi, Option.getD_some] at hparts
    rw [hi, Option.isSome_some] at hcells
    rw [encode_of_operand_eq_some hi, List.cons_append, List.singleton_append,
      decode_of_two_cells hclass hcells.symm, hparts]

/-- Settles O2: the first cell is the number of the class it selects, whatever the map, and the second, where the class
has one, is the whole operand. -/
theorem encodeOfDecode : Obligations.EncodeOfDecode := by
  intro m cells i rest hdec
  obtain ⟨w, c, hclass, ⟨ho, v, rfl, rfl⟩ | ⟨ho, rfl, rfl⟩⟩ := decode_cases hdec <;>
    obtain rfl := OpcodeMap.numberOf_of_classOf hclass
  · have hv : (c.withOperand v).operand = some v := by rw [Opcode.operand_withOperand, if_pos ho]
    rw [encode_of_operand_eq_some hv, Opcode.opcode_withOperand]
    rfl
  · have hnone : (c.withOperand 0).operand = none := by rw [Opcode.operand_withOperand, ho]; rfl
    rw [encode_of_operand_eq_none hnone, Opcode.opcode_withOperand]
    rfl

/-! ### The default map -/

/-- The numbers of R65, as signed values and in the order of the classes. -/
theorem OpcodeMap.standard_numbers :
    (Opcode.all.map OpcodeMap.standard.numberOf).map BitVec.toInt = (List.range' 1 30).map Nat.cast ++ [50] := by
  decide

theorem OpcodeMap.standard_nodup : (Opcode.all.map OpcodeMap.standard.numberOf).Nodup := by decide

/-- A word is malformed just when it is not in the map's list of numbers (R66). -/
theorem OpcodeMap.classOf_eq_none_iff_notMem : m.classOf w = none ↔ w ∉ Opcode.all.map m.numberOf := by
  rw [OpcodeMap.classOf_eq_none, List.mem_map]
  exact ⟨fun h ⟨c, _, hc⟩ => h c hc, fun h c hc => h ⟨c, c.mem_all, hc⟩⟩

theorem OpcodeMap.mem_standard_numbers :
    w ∈ Opcode.all.map OpcodeMap.standard.numberOf ↔ (1 ≤ w.toInt ∧ w.toInt ≤ 30) ∨ w.toInt = 50 := by
  have hinj : Function.Injective (BitVec.toInt : Word → Int) := fun _ _ => BitVec.eq_of_toInt_eq
  have hrange : (∃ n ∈ List.range' 1 30, (n : Int) = w.toInt) ↔ 1 ≤ w.toInt ∧ w.toInt ≤ 30 := by
    simp only [List.mem_range'_1]
    exact ⟨by omega, fun h => ⟨w.toInt.toNat, by omega⟩⟩
  rw [← List.mem_map_of_injective hinj, OpcodeMap.standard_numbers, List.mem_append, List.mem_map, hrange,
    List.mem_singleton]

/-- Settles O3: a word has no class just when it is not one of the 31 numbers, and those are 1 to 30 and 50. -/
theorem malformedWordsUnderDefaultMap : Obligations.MalformedWordsUnderDefaultMap := fun _ _ =>
  ⟨by rw [OpcodeMap.classOf_eq_none_iff_notMem, OpcodeMap.mem_standard_numbers, not_or], decode_of_no_class⟩

theorem decode_encode_standard (i : Instr) : decode OpcodeMap.standard (encode OpcodeMap.standard i) = .ok (i, []) := by
  simpa using decodeOfEncode OpcodeMap.standard OpcodeMap.standard_nodup i []

/-- Settles O4: the words written from R65's table are the encodings of the instructions, so O1 decodes them. -/
theorem writtenWordsDecode : Obligations.WrittenWordsDecode :=
  ⟨decode_encode_standard (.loadVal 5), decode_encode_standard (.storeAddr 1500), decode_encode_standard (.putPort 1),
    decode_encode_standard .addX, decode_encode_standard .copyToX, decode_encode_standard (.jumpIfNotEqual 7),
    decode_encode_standard .push, decode_encode_standard .int, decode_encode_standard .endRun⟩

end Sys2Proof

namespace Sys2Proof.Machine

variable {s t : State} {c : Opcode}

/-! ### An operand fetch that halts -/

theorem fetchOperand_violating (hv : Violating s s.pc) : fetchOperand s = .halt (afterViolation s.pc s) := by
  rw [fetchOperand, memRead_violating hv, Eng.bind_halt]

theorem fetchOperand_outOfRange (ho : OutOfRange s s.pc) :
    fetchOperand s = .halt (afterOutOfRange (.read s.pc) s.pc s) := by
  rw [fetchOperand, memRead_outOfRange ho, Eng.bind_halt]

/-- Where the operand cell of a class cannot be read, its instruction has no effect (R70 (f)). -/
theorem fetchRest_of_operand_halt (ho : c.hasOperand = true) (hf : fetchOperand s = .halt t) :
    fetchRest c s = .over t := by
  simp only [fetchRest, ho, hf, if_true]

/-- Settles O7: the step is over where the operand fetch halts, and that fetch starts from the state after the opcode
fetch, with IR and PC already changed. -/
theorem operandFetchHalts : Obligations.OperandFetchHalts := by
  intro s c hr hs ha hc ho
  have hover : ∀ t, fetchOperand s.opcodeFetched = .halt t → step s = .next t := fun t hf =>
    step_of_fetch_over hr hs ((fetchInstr_of_class ha hc).trans (fetchRest_of_operand_halt ho hf))
  exact ⟨fun hv => hover _ (fetchOperand_violating (s := s.opcodeFetched) hv),
    fun hout => hover _ (fetchOperand_outOfRange (s := s.opcodeFetched) hout)⟩

end Sys2Proof.Machine

/-! The load and store family (spec/40_load_store.md): which cell each instruction reads or replaces, and what it leaves
where the access is not allowed. Each meaning is one access, or two for the indirect load. -/

namespace Sys2Proof.Machine

variable {s t : State} {a : Word}

/-! ### The access of each meaning, with its address written out -/

theorem exec_loadAddr (a : Word) (s : State) : exec (.loadAddr a) s = (loadFrom a s).finish := rfl

theorem exec_loadIndAddr (a : Word) (s : State) :
    exec (.loadIndAddr a) s = ((memRead a s).bind loadFrom).finish := rfl

theorem exec_loadIdxXAddr (a : Word) (s : State) : exec (.loadIdxXAddr a) s = (loadFrom (a + s.x) s).finish := rfl

theorem exec_loadIdxYAddr (a : Word) (s : State) : exec (.loadIdxYAddr a) s = (loadFrom (a + s.y) s).finish := rfl

theorem exec_loadSpX (s : State) : exec .loadSpX s = (loadFrom (s.sp + s.x) s).finish := rfl

theorem exec_storeAddr (a : Word) (s : State) : exec (.storeAddr a) s = (memWrite a s.ac s).finish := rfl

/-! ### The load of one cell -/

/-- A load that is allowed changes AC and sends one READ. -/
theorem finish_loadFrom_accessible (ha : Accessible s a) :
    (loadFrom a s).finish = .next { s with ac := s.mem.read a.toNat, sent := s.sent ++ [.read a] } := by
  rw [loadFrom, memRead_accessible ha]
  rfl

/-- Where the read halts AC is not written (R70 (f)). -/
theorem finish_loadFrom_of_halt (hread : memRead a s = .halt t) : (loadFrom a s).finish = .next t := by
  rw [loadFrom, hread, Eng.bind_halt, Eng.finish_halt]

theorem finish_loadFrom_violating (hv : Violating s a) : (loadFrom a s).finish = .next (afterViolation a s) :=
  finish_loadFrom_of_halt (memRead_violating hv)

theorem finish_loadFrom_outOfRange (ho : OutOfRange s a) :
    (loadFrom a s).finish = .next (afterOutOfRange (.read a) a s) :=
  finish_loadFrom_of_halt (memRead_outOfRange ho)

/-! ### The indirect load -/

/-- Where the pointer cannot be read the second read does not happen (R73, R70 (f)). -/
theorem exec_loadIndAddr_of_halt (hread : memRead a s = .halt t) : exec (.loadIndAddr a) s = .next t := by
  rw [exec_loadIndAddr, hread, Eng.bind_halt, Eng.finish_halt]

/-- Once the pointer is read, what is left is a load of the cell it names. -/
theorem exec_loadIndAddr_of_accessible (ha : Accessible s a) :
    exec (.loadIndAddr a) s = (loadFrom (s.mem.read a.toNat) (s.record (.read a))).finish := by
  rw [exec_loadIndAddr, memRead_accessible ha, Eng.bind_ok]

/-! ### The statements -/

/-- Settles O15: an allowed write replaces the cell in the memory it was given, and read after write says what every
cell holds then. -/
theorem storeWritesOneCell : Obligations.StoreWritesOneCell := by
  intro a s hwf ha
  have hstore : exec (.storeAddr a) s = .next ((s.record (.write a s.ac)).setMem (s.mem.write a.toNat s.ac)) := by
    rw [exec_storeAddr, memWrite_accessible ha, Eng.finish_ok]
  exact ⟨_, hstore, rfl, Memory.write_keeps_wf hwf, Memory.read_write_same hwf _ _,
    fun b hne => Memory.read_write_other hwf hne⟩

/-- Settles O11: the meaning is the one register write. -/
theorem loadValueSetsAccumulator : Obligations.LoadValueSetsAccumulator := fun _ _ => rfl

/-- Settles O12: the four loads differ in their address alone. -/
theorem loadsReadTheirCell : Obligations.LoadsReadTheirCell := by
  intro a s
  rw [exec_loadAddr, exec_loadIdxXAddr, exec_loadIdxYAddr, exec_loadSpX]
  exact ⟨finish_loadFrom_accessible, finish_loadFrom_accessible, finish_loadFrom_accessible,
    finish_loadFrom_accessible⟩

/-- Settles O13: the read of the pointer leaves the memory and the addresses allowed, so the second load starts from
them. -/
theorem indirectLoadFollowsPointer : Obligations.IndirectLoadFollowsPointer := by
  rintro a p s rfl ha hp
  rw [exec_loadIndAddr_of_accessible ha, finish_loadFrom_accessible (s := s.record (.read a)) hp]
  simp [State.record]

/-- Settles O14: the load halts where its read does; the indirect load at the pointer, or at the cell that the pointer
names once the READ of the pointer was sent. -/
theorem loadsHaltOnBadAddress : Obligations.LoadsHaltOnBadAddress := by
  intro a p s
  rw [exec_loadAddr, exec_loadIdxXAddr, exec_loadIdxYAddr, exec_loadSpX]
  refine ⟨fun hv => ⟨finish_loadFrom_violating hv, exec_loadIndAddr_of_halt (memRead_violating hv)⟩,
    fun ho => ⟨finish_loadFrom_outOfRange ho, exec_loadIndAddr_of_halt (memRead_outOfRange ho)⟩,
    finish_loadFrom_violating, finish_loadFrom_outOfRange, finish_loadFrom_violating, finish_loadFrom_outOfRange,
    finish_loadFrom_violating, finish_loadFrom_outOfRange, ?_⟩
  rintro ha rfl
  rw [exec_loadIndAddr_of_accessible ha]
  exact ⟨finish_loadFrom_violating (s := s.record (.read a)), finish_loadFrom_outOfRange (s := s.record (.read a))⟩

/-- Settles O16: the store is one write, and a write that halts stores nothing. -/
theorem storeHaltsOnBadAddress : Obligations.StoreHaltsOnBadAddress := fun a s =>
  ⟨fun hv => by rw [exec_storeAddr, memWrite_violating hv, Eng.finish_halt],
    fun ho => by rw [exec_storeAddr, memWrite_outOfRange ho, Eng.finish_halt]⟩

end Sys2Proof.Machine

/-! The random source and the output port (spec/41_io.md): what `Get` takes from the source, and what a port emits. -/

namespace Sys2Proof.Machine

variable {p : Word} {s : State}

/-! ### The two meanings -/

/-- `Get` counts the draw and puts its word in AC (R80). -/
theorem exec_get (s : State) : exec .get s = .next (s.countDraw.setAc (drawWord s.draws)) := rfl

theorem exec_putPort (p : Word) (s : State) : exec (.putPort p) s = .next (emitPort p s) := rfl

/-! ### The output port, by its three cases (R78) -/

theorem emitPort_decimal (s : State) : emitPort 1#32 s = s.emit (.output 1#32 s.ac) := if_pos rfl

theorem emitPort_character (s : State) : emitPort 2#32 s = s.emit (.output 2#32 s.ac) := by
  have hne : (2#32 : Word) ≠ 1#32 := by decide
  rw [emitPort, if_neg hne, if_pos rfl]

theorem emitPort_unused (h₁ : p ≠ 1#32) (h₂ : p ≠ 2#32) : emitPort p s = s := by
  rw [emitPort, if_neg h₁, if_neg h₂]

/-! ### The statements -/

/-- Settles O18: the word put in AC is the draw's, and every draw is within the bounds. -/
theorem getDrawsWithinBounds : Obligations.GetDrawsWithinBounds := fun s =>
  have ⟨hlow, hhigh⟩ := drawWord_bounds s.draws
  ⟨drawWord s.draws, hlow, hhigh, exec_get s⟩

/-- Settles O19: the three clauses are the three cases of the port. -/
theorem putPortEmitsOnItsTwoPorts : Obligations.PutPortEmitsOnItsTwoPorts := by
  intro p s
  rw [exec_putPort]
  refine ⟨?decimal, ?character, ?unused⟩
  case decimal =>
    rintro rfl
    rw [emitPort_decimal, State.emit]
  case character =>
    rintro rfl
    rw [emitPort_character, State.emit]
  case unused =>
    intro h₁ h₂
    rw [emitPort_unused h₁ h₂]

end Sys2Proof.Machine

/-! Arithmetic (spec/42_arithmetic.md): each of the six instructions writes one register, with a sum or a difference of
words. Words wrap as R82 asks, so the signed value of the result is the exact one reduced modulo 2^32. -/

namespace Sys2Proof.Machine

/-! ### The register each instruction writes (R83 to R88) -/

theorem exec_addX (s : State) : exec .addX s = .next (s.setAc (s.ac + s.x)) := rfl

theorem exec_addY (s : State) : exec .addY s = .next (s.setAc (s.ac + s.y)) := rfl

theorem exec_subX (s : State) : exec .subX s = .next (s.setAc (s.ac - s.x)) := rfl

theorem exec_subY (s : State) : exec .subY s = .next (s.setAc (s.ac - s.y)) := rfl

theorem exec_incX (s : State) : exec .incX s = .next (s.setX (s.x + 1#32)) := rfl

theorem exec_decX (s : State) : exec .decX s = .next (s.setX (s.x - 1#32)) := rfl

/-! ### The statement -/

/-- Settles O20: the word written is a sum or a difference, whose signed value `BitVec.toInt_add` and
`BitVec.toInt_sub` give; for `IncX` and `DecX` the other operand is the word one. -/
theorem arithmeticWraps : Obligations.ArithmeticWraps := by
  intro s
  have hone : (1#32 : Word).toInt = 1 := by decide
  refine ⟨?addX, ?addY, ?subX, ?subY, ?incX, ?decX⟩
  case addX => exact ⟨s.ac + s.x, BitVec.toInt_add .., exec_addX s⟩
  case addY => exact ⟨s.ac + s.y, BitVec.toInt_add .., exec_addY s⟩
  case subX => exact ⟨s.ac - s.x, BitVec.toInt_sub .., exec_subX s⟩
  case subY => exact ⟨s.ac - s.y, BitVec.toInt_sub .., exec_subY s⟩
  case incX => exact ⟨s.x + 1#32, by rw [BitVec.toInt_add, hone], exec_incX s⟩
  case decX => exact ⟨s.x - 1#32, by rw [BitVec.toInt_sub, hone], exec_decX s⟩

end Sys2Proof.Machine

/-! Register transfer (spec/43_register_transfer.md): each of the six copies is one register write, of the word that
another register holds. -/

namespace Sys2Proof.Machine

/-! ### The register each copy writes (R89 to R94) -/

theorem exec_copyToX (s : State) : exec .copyToX s = .next (s.setX s.ac) := rfl

theorem exec_copyFromX (s : State) : exec .copyFromX s = .next (s.setAc s.x) := rfl

theorem exec_copyToY (s : State) : exec .copyToY s = .next (s.setY s.ac) := rfl

theorem exec_copyFromY (s : State) : exec .copyFromY s = .next (s.setAc s.y) := rfl

/-- No address is checked when SP is written, in either mode (R93). -/
theorem exec_copyToSp (s : State) : exec .copyToSp s = .next (s.setSp s.ac) := rfl

theorem exec_copyFromSp (s : State) : exec .copyFromSp s = .next (s.setAc s.sp) := rfl

/-! ### The statement -/

/-- Settles O21: each copy is its one register write, and a register write replaces that field alone. -/
theorem transfersCopyOneRegister : Obligations.TransfersCopyOneRegister := fun s =>
  ⟨exec_copyToX s, exec_copyFromX s, exec_copyToY s, exec_copyFromY s, exec_copyToSp s, exec_copyFromSp s⟩

end Sys2Proof.Machine

/-! Control transfer, call and return (spec/44_control_transfer.md): a jump writes PC or leaves it, a call is a push
before the jump, and a return is a pop into PC. -/

namespace Sys2Proof.Machine

variable {s u : State} {a b : Word}

/-! ### The meanings, with the test of AC written out (R96 to R100) -/

theorem exec_jumpAddr (a : Word) (s : State) : exec (.jumpAddr a) s = .next (s.setPc a) := rfl

theorem acIsZero_iff : acIsZero s = true ↔ s.ac = 0#32 := decide_eq_true_iff

theorem exec_jumpIfEqual (a : Word) (s : State) :
    exec (.jumpIfEqual a) s = .next (if s.ac = 0#32 then s.setPc a else s) := by
  simp only [exec, execJumpIfEqual, acIsZero_iff]

theorem exec_jumpIfNotEqual (a : Word) (s : State) :
    exec (.jumpIfNotEqual a) s = .next (if s.ac = 0#32 then s else s.setPc a) := by
  simp only [exec, execJumpIfNotEqual, acIsZero_iff]

/-- `Call_Addr` is a push of PC and then the jump (R99). -/
theorem exec_callAddr (a : Word) (s : State) :
    exec (.callAddr a) s = ((pushWord s.pc s).bind fun _ t => .ok () (t.setPc a)).finish := rfl

/-- `Ret` is a pop into PC (R100). -/
theorem exec_ret (s : State) : exec .ret s = ((popWord s).bind fun v t => .ok () (t.setPc v)).finish := rfl

/-! ### A call and a return that complete -/

/-- The state after a call of `a` whose push is allowed (R99). -/
def State.called (a : Word) (s : State) : State :=
  { s with
    sp := s.sp - 1#32
    pc := a
    mem := s.mem.write (s.sp - 1#32).toNat s.pc
    sent := s.sent ++ [.write (s.sp - 1#32) s.pc] }

theorem exec_callAddr_accessible (ha : Accessible s (s.sp - 1#32)) : exec (.callAddr a) s = .next (s.called a) := by
  rw [exec_callAddr, pushWord_accessible ha, Eng.bind_ok, Eng.finish_ok]
  rfl

theorem exec_ret_accessible (ha : Accessible s s.sp) : exec .ret s =
    .next { s with pc := s.mem.read s.sp.toNat, sp := s.sp + 1#32, sent := s.sent ++ [.read s.sp] } := by
  rw [exec_ret, popWord_accessible ha, Eng.bind_ok, Eng.finish_ok]
  rfl

/-- The cell that SP names after a call holds the return address. -/
theorem State.called_top (hwf : s.mem.wf = true) (a : Word) :
    (s.called a).mem.read (s.called a).sp.toNat = s.pc := Memory.read_write_same hwf _ _

/-- Whether an access is allowed rests on the configuration and the mode alone (R44). -/
theorem Accessible.of_cfg_mode (ha : Accessible s b) (hcfg : u.cfg = s.cfg) (hmode : u.mode = s.mode) :
    Accessible u b := by
  unfold Accessible
  rwa [hcfg, hmode]

/-! ### The statements -/

/-- Settles O23: the push replaces the cell below the old top, and read after write says what every cell holds then. -/
theorem callPushesReturnAddress : Obligations.CallPushesReturnAddress := fun a _ hwf ha =>
  ⟨_, exec_callAddr_accessible ha, rfl, State.called_top hwf a, fun _ hne => Memory.read_write_other hwf hne⟩

/-- Settles O25: the call's push was allowed at the address of the Ret's pop, in the same mode and configuration, so the
Ret completes; it pops the word that the call put there. -/
theorem callAndReturnBalance : Obligations.CallAndReturnBalance := by
  intro a s hwf ha
  refine ⟨s.called a, exec_callAddr_accessible ha, fun u hcfg hmode hsp htop => ?_⟩
  have hpop : Accessible u u.sp := by
    rw [hsp]
    exact Accessible.of_cfg_mode (s := s) ha hcfg hmode
  refine ⟨_, exec_ret_accessible hpop, ?pc, ?sp⟩
  case pc => calc
    u.mem.read u.sp.toNat = u.mem.read (s.called a).sp.toNat := by rw [hsp]
    _ = (s.called a).mem.read (s.called a).sp.toNat := htop
    _ = s.pc := State.called_top hwf a
  case sp => calc
    u.sp + 1#32 = s.sp - 1#32 + 1#32 := congrArg (· + 1#32) hsp
    _ = s.sp := BitVec.sub_add_cancel ..

/-- Settles O22: the clauses are the jump and the two branches of the test of AC. -/
theorem jumpsSetThePc : Obligations.JumpsSetThePc := by
  intro a s
  rw [exec_jumpAddr, exec_jumpIfEqual, exec_jumpIfNotEqual]
  refine ⟨rfl, fun hzero => ?zero, fun hne => ?nonzero⟩
  case zero =>
    rw [if_pos hzero, if_pos hzero]
    exact ⟨rfl, rfl⟩
  case nonzero =>
    rw [if_neg hne, if_neg hne]
    exact ⟨rfl, rfl⟩

/-- Settles O24: the pop is one READ that leaves SP incremented, and its word goes into PC. -/
theorem returnPopsThePc : Obligations.ReturnPopsThePc := fun _ => exec_ret_accessible

end Sys2Proof.Machine

/-! The stack (spec/45_stack.md): `Push` and `Pop` are the shared push and pop with AC, and a stack access that is not
allowed halts all four stack instructions, a push with SP already decremented and a pop with SP as it was. -/

namespace Sys2Proof.Machine

variable {s t : State} {a v : Word}

/-! ### The two meanings (R102, R103) -/

theorem exec_push (s : State) : exec .push s = (pushWord s.ac s).finish := rfl

theorem exec_pop (s : State) : exec .pop s = ((popWord s).bind fun v t => .ok () (t.setAc v)).finish := rfl

/-! ### A push and a pop that complete -/

/-- The state after a `Push` that is allowed (R102). -/
def State.pushed (s : State) : State :=
  { s with
    sp := s.sp - 1#32
    mem := s.mem.write (s.sp - 1#32).toNat s.ac
    sent := s.sent ++ [.write (s.sp - 1#32) s.ac] }

theorem exec_push_accessible (ha : Accessible s (s.sp - 1#32)) : exec .push s = .next s.pushed := by
  rw [exec_push, pushWord_accessible ha, Eng.finish_ok, State.pushed]

theorem exec_pop_accessible (ha : Accessible s s.sp) : exec .pop s =
    .next { s with ac := s.mem.read s.sp.toNat, sp := s.sp + 1#32, sent := s.sent ++ [.read s.sp] } := by
  rw [exec_pop, popWord_accessible ha, Eng.bind_ok, Eng.finish_ok]
  rfl

/-- The cell that SP names after a `Push` holds AC. -/
theorem State.pushed_top (hwf : s.mem.wf = true) : s.pushed.mem.read s.pushed.sp.toNat = s.ac :=
  Memory.read_write_same hwf _ _

/-! ### A stack access that halts -/

/-- SP is decremented before the write is checked, so it stays decremented (R101, R70 (f)). -/
theorem pushWord_violating (hv : Violating s (s.sp - 1#32)) :
    pushWord v s = .halt (afterViolation (s.sp - 1#32) (s.setSp (s.sp - 1#32))) :=
  memWrite_violating (s := s.setSp (s.sp - 1#32)) hv

theorem pushWord_outOfRange (ho : OutOfRange s (s.sp - 1#32)) :
    pushWord v s = .halt (afterOutOfRange (.write (s.sp - 1#32) v) (s.sp - 1#32) (s.setSp (s.sp - 1#32))) :=
  memWrite_outOfRange (s := s.setSp (s.sp - 1#32)) ho

/-- SP is incremented after the read, so a read that halts leaves it (R101, R70 (f)). -/
theorem popWord_violating (hv : Violating s s.sp) : popWord s = .halt (afterViolation s.sp s) := by
  rw [popWord, memRead_violating hv, Eng.bind_halt]

theorem popWord_outOfRange (ho : OutOfRange s s.sp) : popWord s = .halt (afterOutOfRange (.read s.sp) s.sp s) := by
  rw [popWord, memRead_outOfRange ho, Eng.bind_halt]

theorem exec_push_of_halt (hpush : pushWord s.ac s = .halt t) : exec .push s = .next t := by
  rw [exec_push, hpush, Eng.finish_halt]

/-- Where its push halts the call does not jump (R99). -/
theorem exec_callAddr_of_halt (hpush : pushWord s.pc s = .halt t) : exec (.callAddr a) s = .next t := by
  rw [exec_callAddr, hpush, Eng.bind_halt, Eng.finish_halt]

/-- Where the pop halts AC is not written (R103). -/
theorem exec_pop_of_halt (hpop : popWord s = .halt t) : exec .pop s = .next t := by
  rw [exec_pop, hpop, Eng.bind_halt, Eng.finish_halt]

/-- Where the pop halts PC is not written (R100). -/
theorem exec_ret_of_halt (hpop : popWord s = .halt t) : exec .ret s = .next t := by
  rw [exec_ret, hpop, Eng.bind_halt, Eng.finish_halt]

/-! ### The statements -/

/-- Settles O26: the push replaces the cell below the old top, and read after write says what every cell holds then. -/
theorem pushStoresAccumulator : Obligations.PushStoresAccumulator := fun _ hwf ha =>
  ⟨_, exec_push_accessible ha, rfl, State.pushed_top hwf, fun _ hne => Memory.read_write_other hwf hne⟩

/-- Settles O29: the pop reads at the address that the push was allowed to write, and finds there the word that the push
stored; a change of AC in between touches neither. -/
theorem popAfterPushRestores : Obligations.PopAfterPushRestores := by
  intro s hwf ha
  refine ⟨s.pushed, exec_push_accessible ha, fun v => ?_⟩
  have hpop : Accessible (s.pushed.setAc v) (s.pushed.setAc v).sp := Accessible.of_cfg_mode (s := s) ha rfl rfl
  exact ⟨_, exec_pop_accessible hpop, State.pushed_top hwf, BitVec.sub_add_cancel .., rfl⟩

/-- Settles O27: the pop is one READ that leaves SP incremented, and its word goes into AC. -/
theorem popLoadsAccumulator : Obligations.PopLoadsAccumulator := fun _ => exec_pop_accessible

/-- Settles O28: each of the four instructions halts where its push or its pop does, in the same state. -/
theorem stackHaltsOnBadAddress : Obligations.StackHaltsOnBadAddress := by
  intro a s
  refine ⟨fun hv => ?pushViolating, fun ho => ?pushOutOfRange, fun hv => ?popViolating, fun ho => ?popOutOfRange⟩
  case pushViolating =>
    exact ⟨exec_push_of_halt (pushWord_violating hv), exec_callAddr_of_halt (pushWord_violating hv)⟩
  case pushOutOfRange =>
    exact ⟨exec_push_of_halt (pushWord_outOfRange ho), exec_callAddr_of_halt (pushWord_outOfRange ho)⟩
  case popViolating =>
    exact ⟨exec_pop_of_halt (popWord_violating hv), exec_ret_of_halt (popWord_violating hv)⟩
  case popOutOfRange =>
    exact ⟨exec_pop_of_halt (popWord_outOfRange ho), exec_ret_of_halt (popWord_outOfRange ho)⟩

end Sys2Proof.Machine

/-! System call, return, terminate and malformed opcodes (spec/46_system.md): what `Int` saves and `IRet` restores, the
two in sequence, and the slide over zero cells up to the end of the region. -/

namespace Sys2Proof.Machine

variable {s t : State} {c : Opcode} {b n : Nat} {limit : Word}

/-! ### The meanings, by the mode (R104 to R106) -/

theorem exec_int_user (hm : s.mode = .user) : exec .int s = (enterHandler s).finish := by
  simp only [exec, execInt, hm]

theorem exec_int_kernel (hm : s.mode = .kernel) : exec .int s = .next s := by
  simp only [exec, execInt, hm]

theorem exec_iRet_user (hm : s.mode = .user) : exec .iRet s = .next s := by
  simp only [exec, execIRet, hm]

theorem exec_iRet_kernel (hm : s.mode = .kernel) : exec .iRet s = (leaveHandler s).finish := by
  simp only [exec, execIRet, hm]

theorem exec_endRun (s : State) : exec .endRun s = .next (haltClean s) := rfl

/-! ### Trap entry -/

/-- The state after an `Int` in USER mode (R104). -/
def State.trapped (s : State) : State :=
  { s with
    mode := .kernel
    sp := s.cfg.sysStackTop - 2#32
    pc := s.cfg.intHandler
    mem := (s.mem.write (s.cfg.sysStackTop - 1#32).toNat s.sp).write (s.cfg.sysStackTop - 2#32).toNat s.pc
    sent := s.sent ++ [.write (s.cfg.sysStackTop - 1#32) s.sp, .write (s.cfg.sysStackTop - 2#32) s.pc] }

theorem exec_int_trapped (hc : s.cfg.RegionsValid) (hm : s.mode = .user) : exec .int s = .next s.trapped := by
  obtain ⟨hfirst, hsecond⟩ := saves_accessible (s := s.setMode .kernel) hc rfl
  rw [exec_int_user hm, enterHandler_accessible hfirst hsecond, Eng.finish_ok, State.trapped]

/-- The two saves of an `Int` are two cells. -/
theorem saves_distinct (w : Word) : (w - 1#32).toNat ≠ (w - 2#32).toNat := by
  bv_omega

theorem State.trapped_userSp (hwf : s.mem.wf = true) :
    s.trapped.mem.read (s.cfg.sysStackTop - 1#32).toNat = s.sp :=
  (Memory.read_write_other (Memory.write_keeps_wf hwf) (saves_distinct _)).trans (Memory.read_write_same hwf _ _)

theorem State.trapped_returnPc (hwf : s.mem.wf = true) :
    s.trapped.mem.read (s.cfg.sysStackTop - 2#32).toNat = s.pc :=
  Memory.read_write_same (Memory.write_keeps_wf hwf) _ _

theorem State.trapped_other (hwf : s.mem.wf = true) (hb : Config.NotSaved s.cfg b) :
    s.trapped.mem.read b = s.mem.read b :=
  (Memory.read_write_other (Memory.write_keeps_wf hwf) hb.2).trans (Memory.read_write_other hwf hb.1)

/-! ### Trap return -/

/-- The state after an `IRet` in KERNEL mode whose pops are allowed (R105). -/
def State.returned (s : State) : State :=
  { s with
    mode := .user
    pc := s.mem.read s.sp.toNat
    sp := s.mem.read (s.sp + 1#32).toNat
    sent := s.sent ++ [.read s.sp, .read (s.sp + 1#32)] }

theorem exec_iRet_returned (hm : s.mode = .kernel) (h₁ : Accessible s s.sp) (h₂ : Accessible s (s.sp + 1#32)) :
    exec .iRet s = .next s.returned := by
  rw [exec_iRet_kernel hm, leaveHandler_accessible h₁ h₂, Eng.finish_ok, State.returned]

/-- Where the first pop is out of range nothing was restored (R105, R70 (f)). -/
theorem leaveHandler_first_outOfRange (ho : OutOfRange s s.sp) :
    leaveHandler s = .halt (afterOutOfRange (.read s.sp) s.sp s) := by
  rw [leaveHandler, popWord_outOfRange ho, Eng.bind_halt]

/-- Where the second pop is out of range PC was restored, and SP is past the first word (R105, R70 (f)). -/
theorem leaveHandler_second_outOfRange (ha : Accessible s s.sp) (ho : OutOfRange s (s.sp + 1#32)) :
    leaveHandler s = .halt (afterOutOfRange (.read (s.sp + 1#32)) (s.sp + 1#32)
      { s with pc := s.mem.read s.sp.toNat, sp := s.sp + 1#32, sent := s.sent ++ [.read s.sp] }) := by
  rw [leaveHandler, popWord_accessible ha, Eng.bind_ok, popWord_outOfRange ho, Eng.bind_halt]
  rfl

/-! ### The meanings' statements -/

/-- Settles O10: among all that a meaning can do there is no refusal and no fault. -/
theorem everyMeaningHasNextState : Obligations.EveryMeaningHasNextState := by
  intro i s
  obtain ⟨t, ht, -⟩ := exec_runs i s
  exact ⟨t, ht⟩

/-- Settles O30: R6's constraints let both saves be written, and read after write says what every cell holds then. -/
theorem systemCallEntersHandler : Obligations.SystemCallEntersHandler := fun s hc hwf hm =>
  ⟨s.trapped, exec_int_trapped hc hm, rfl, State.trapped_userSp hwf, State.trapped_returnPc hwf,
    fun _ hfirst hsecond => State.trapped_other hwf ⟨hfirst, hsecond⟩⟩

/-- Settles O31: both pops complete, and the second popped word replaces the incremented SP. -/
theorem systemReturnRestores : Obligations.SystemReturnRestores := fun _ => exec_iRet_returned

/-- Settles O32: the return halts at its first or at its second pop. -/
theorem systemReturnHaltsOnBadStack : Obligations.SystemReturnHaltsOnBadStack := by
  refine fun s hm => ⟨fun ho => ?first, fun ha ho => ?second⟩ <;> rw [exec_iRet_kernel hm]
  case first => rw [leaveHandler_first_outOfRange ho, Eng.finish_halt]
  case second => rw [leaveHandler_second_outOfRange ha ho, Eng.finish_halt]

/-- Settles O33: each is the branch of the mode that the instruction does not apply to. -/
theorem systemInstructionsAreNoOpsInOtherMode : Obligations.SystemInstructionsAreNoOpsInOtherMode := fun _ =>
  ⟨exec_int_kernel, exec_iRet_user⟩

/-- Settles O34: the meaning is the clean halt in either mode, whose fields are those of R120. -/
theorem endHaltsCleanly : Obligations.EndHaltsCleanly := by
  intro s
  rw [exec_endRun, haltClean_eq]

/-! ### `Int` and then `IRet` -/

/-- Where the cell at PC holds the number of a one-cell class, the step is that class's meaning after the opcode
fetch. -/
theorem step_of_number (hr : s.run = .running) (hs : s.service = .serving) (hc : s.cfg.Valid) (ha : Accessible s s.pc)
    (hcell : s.mem.read s.pc.toNat = s.cfg.opcodeMap.numberOf c) (ho : c.hasOperand = false) :
    step s = exec (c.withOperand 0) s.opcodeFetched := by
  have hclass : s.cfg.opcodeMap.classOf (s.mem.read s.pc.toNat) = some c := by
    rw [hcell, OpcodeMap.classOf_numberOf hc.2.1]
  exact step_of_fetch_run hr hs ((fetchInstr_of_class ha hclass).trans (fetchRest_of_one_cell ho))

/-- R6's constraints make the handler a cell that KERNEL mode may fetch from. -/
theorem intHandler_accessible (hc : s.cfg.RegionsValid) (hm : s.mode = .kernel) :
    Accessible s s.cfg.intHandler := by
  obtain ⟨hpos, -, -, hlow, hhigh, -, -⟩ := hc
  exact ⟨fun hu => absurd (hm.symm.trans hu) nofun, by omega, hhigh⟩

/-- The word above the saved PC is the saved SP. -/
theorem sysStackTop_saves_adjacent (w : Word) : w - 2#32 + 1#32 = w - 1#32 := by
  bv_omega

/-- With SP where an `Int` leaves it, both pops of an `IRet` are allowed. -/
theorem exec_iRet_of_trapped_sp (hc : s.cfg.RegionsValid) (hm : s.mode = .kernel)
    (hsp : s.sp = s.cfg.sysStackTop - 2#32) : exec .iRet s = .next s.returned := by
  obtain ⟨hfirst, hsecond⟩ := saves_accessible hc hm
  refine exec_iRet_returned hm ?pc ?sp <;> rw [hsp]
  case pc => exact hsecond
  case sp => rwa [sysStackTop_saves_adjacent]

/-- Right after an `Int` whose handler begins with `IRet`, the step is that `IRet`: the saves left the handler's
cell. -/
theorem step_trapped (hr : s.run = .running) (hs : s.service = .serving) (hc : s.cfg.Valid) (hwf : s.mem.wf = true)
    (hcell : s.mem.read s.cfg.intHandler.toNat = s.cfg.opcodeMap.numberOf .iRet)
    (hkept : Config.NotSaved s.cfg s.cfg.intHandler.toNat) :
    step s.trapped = .next s.trapped.opcodeFetched.returned := by
  have hcell' : s.trapped.mem.read s.trapped.pc.toNat = s.cfg.opcodeMap.numberOf .iRet :=
    (State.trapped_other hwf hkept).trans hcell
  have hfetch : Accessible s.trapped s.trapped.pc := intHandler_accessible (s := s.trapped) hc.1 rfl
  calc step s.trapped
    _ = exec .iRet s.trapped.opcodeFetched := step_of_number (s := s.trapped) hr hs hc hfetch hcell' rfl
    _ = .next s.trapped.opcodeFetched.returned :=
      exec_iRet_of_trapped_sp (s := s.trapped.opcodeFetched) hc.1 rfl rfl

theorem State.trapped_returned_pc (hwf : s.mem.wf = true) : s.trapped.opcodeFetched.returned.pc = s.pc :=
  State.trapped_returnPc hwf

theorem State.trapped_returned_sp (hwf : s.mem.wf = true) : s.trapped.opcodeFetched.returned.sp = s.sp := by
  have htop : s.trapped.sp + 1#32 = s.cfg.sysStackTop - 1#32 := sysStackTop_saves_adjacent _
  calc s.trapped.opcodeFetched.returned.sp
    _ = s.trapped.mem.read (s.trapped.sp + 1#32).toNat := rfl
    _ = s.trapped.mem.read (s.cfg.sysStackTop - 1#32).toNat := by rw [htop]
    _ = s.sp := State.trapped_userSp hwf

/-- Settles O35: the first step saves PC, which the fetch has moved past the `Int` cell, and SP; the second one pops
them. -/
theorem systemCallRoundTrip : Obligations.SystemCallRoundTrip := by
  intro s hr hs hc hwf hm ha hint hiret hne₁ hne₂
  have hkept : Config.NotSaved s.cfg s.cfg.intHandler.toNat :=
    ⟨fun h => hne₁ (BitVec.eq_of_toNat_eq h), fun h => hne₂ (BitVec.eq_of_toNat_eq h)⟩
  have hentry : step s = .next s.opcodeFetched.trapped :=
    (step_of_number hr hs hc ha hint rfl).trans (exec_int_trapped (s := s.opcodeFetched) hc.1 hm)
  have hreturn := step_trapped (s := s.opcodeFetched) hr hs hc hwf hiret hkept
  exact ⟨_, _, hentry, rfl, rfl, rfl, hreturn, rfl, State.trapped_returned_pc (s := s.opcodeFetched) hwf,
    State.trapped_returned_sp (s := s.opcodeFetched) hwf, rfl, rfl, rfl, hr⟩

/-! ### A malformed opcode -/

/-- Where the opcode selects no class the fetch ends the step with the anomaly (R107). -/
theorem fetchInstr_of_no_class (ha : Accessible s s.pc)
    (hc : s.cfg.opcodeMap.classOf (s.mem.read s.pc.toNat) = none) :
    fetchInstr s = .over (malformed s.pc s.opcodeFetched) := by
  have hc' : s.opcodeFetched.cfg.opcodeMap.classOf (s.mem.read s.pc.toNat) = none := hc
  simp only [fetchInstr, fetchOpcode_accessible ha, hc']

/-- Settles O8: the step is the opcode fetch and the anomaly. -/
theorem malformedOpcodeIsAnomaly : Obligations.MalformedOpcodeIsAnomaly := fun _ hr hs ha hc =>
  step_of_fetch_over hr hs (fetchInstr_of_no_class ha hc)

/-! ### The slide over zero cells -/

/-- The state after a step over one zero cell (R107). -/
def State.passedZero (s : State) : State :=
  { s with
    ir := 0#32
    pc := s.pc + 1#32
    sent := s.sent ++ [.read s.pc]
    trace := s.trace ++ [.anomaly s.pc 0#32] }

/-- The state after a slide over `n` zero cells (R107). -/
def State.slid (n : Nat) (s : State) : State :=
  { s with
    pc := s.pc + BitVec.ofNat 32 n
    ir := if n = 0 then s.ir else 0#32
    trace := s.trace ++ slideAnomalies n s.pc
    sent := s.sent ++ slideReads n s.pc }

theorem State.slid_zero (s : State) : s.slid 0 = s := by
  simp [State.slid]

/-- A slide is one step over a zero cell and then the slide from the next cell. -/
theorem State.slid_succ (n : Nat) (s : State) : s.slid (n + 1) = s.passedZero.slid n := by
  have hpc : s.pc + BitVec.ofNat 32 (n + 1) = s.pc + 1#32 + BitVec.ofNat 32 n := by
    rw [Nat.add_comm, BitVec.ofNat_add, BitVec.add_assoc]
  simp [State.slid, State.passedZero, hpc, slideAnomalies_succ, slideReads_succ]

/-- The engine runs `n` cells below `limit`; every cell from PC to `limit` holds 0, which is malformed, and the mode may
read every cell below `limit`. -/
structure SlidesTo (limit : Word) (n : Nat) (s : State) : Prop where
  running : s.run = .running
  serving : s.service = .serving
  malformed : s.cfg.opcodeMap.classOf 0#32 = none
  accessible : ∀ a : Word, 0 ≤ a.toInt → a.toInt < limit.toInt → Accessible s a
  nonneg : 0 ≤ s.pc.toInt
  distance : s.pc.toInt + n = limit.toInt
  zero : ∀ a : Nat, s.pc.toNat ≤ a → (a : Int) < limit.toInt → s.mem.read a = 0#32

theorem SlidesTo.pc_accessible (h : SlidesTo limit (n + 1) s) : Accessible s s.pc := by
  have hdistance := h.distance
  exact h.accessible _ h.nonneg (by omega)

/-- Below the limit a step passes one zero cell. -/
theorem SlidesTo.step_passedZero (h : SlidesTo limit (n + 1) s) : step s = .next s.passedZero := by
  have hdistance := h.distance
  have hnat := h.pc_accessible.toNat_eq_toInt
  have hzero : s.mem.read s.pc.toNat = 0#32 := h.zero _ le_rfl (by omega)
  have hclass : s.cfg.opcodeMap.classOf (s.mem.read s.pc.toNat) = none := by rw [hzero, h.malformed]
  rw [malformedOpcodeIsAnomaly s h.running h.serving h.pc_accessible hclass, hzero, State.passedZero]

/-- Below the limit the next cell's address does not wrap. -/
theorem SlidesTo.pc_add_one (h : SlidesTo limit (n + 1) s) :
    (s.pc + 1#32).toInt = s.pc.toInt + 1 ∧ (s.pc + 1#32).toNat = s.pc.toNat + 1 := by
  have hdistance := h.distance
  have hnonneg := h.nonneg
  have hnat := h.pc_accessible.toNat_eq_toInt
  have hlimit := limit.toInt_lt
  have hone : (1#32 : Word).toInt = 1 := by decide
  rw [BitVec.toInt_add, hone, Int.bmod_def, BitVec.toNat_add, BitVec.toNat_ofNat]
  omega

/-- The step brings the limit one cell nearer. -/
theorem SlidesTo.passedZero (h : SlidesTo limit (n + 1) s) : SlidesTo limit n s.passedZero := by
  have hdistance := h.distance
  have hnonneg := h.nonneg
  obtain ⟨hint, hnat⟩ := h.pc_add_one
  have hpc : s.passedZero.pc = s.pc + 1#32 := rfl
  rw [← hpc] at hint hnat
  exact { h with
    nonneg := by omega
    distance := by omega
    zero := fun a hle hlt => h.zero a (by omega) hlt }

/-- The slide ends with no cell left below the limit. -/
theorem SlidesTo.slid (h : SlidesTo limit n s) : SlidesTo limit 0 (s.slid n) := by
  induction n generalizing s with
  | zero => rwa [State.slid_zero]
  | succ n ih =>
    rw [State.slid_succ]
    exact ih h.passedZero

theorem SlidesTo.slid_pc (h : SlidesTo limit n s) : (s.slid n).pc = limit :=
  BitVec.eq_of_toInt_eq (by simpa using h.slid.distance)

/-- The slide takes one step for each cell. -/
theorem SlidesTo.run_add (h : SlidesTo limit n s) (k : Nat) :
    Sys2Proof.core.run (n + k) s = Sys2Proof.core.run k (s.slid n) := by
  induction n generalizing s with
  | zero => rw [State.slid_zero, Nat.zero_add]
  | succ n ih =>
    rw [Nat.add_right_comm, run_of_step h.step_passedZero, State.slid_succ]
    exact ih h.passedZero

/-- One step more is the fetch at the limit. -/
theorem SlidesTo.run_succ (h : SlidesTo limit n s) (hstep : step (s.slid n) = .next t) :
    Sys2Proof.core.run (n + 1) s = .next t := by
  rw [h.run_add, run_of_step hstep]
  rfl

/-- Settles O56: in USER mode the slide may read up to `USER_LIMIT`, and the fetch there violates privilege. -/
theorem userSlideOverZeroCells : Obligations.UserSlideOverZeroCells := by
  intro n s hr hs hc hmalformed hm hnonneg hdistance hzero
  obtain ⟨-, hlimit, -⟩ := hc
  have hslide : SlidesTo s.cfg.userLimit n s :=
    ⟨hr, hs, hmalformed, fun _ hlow hlt => ⟨fun _ => hlt, hlow, hlt.trans hlimit⟩, hnonneg, hdistance, hzero⟩
  have hpc : (s.slid n).pc = s.cfg.userLimit := hslide.slid_pc
  have hviolating : Violating (s.slid n) (s.slid n).pc := ⟨hm, by rw [hpc]; rfl⟩
  rw [hslide.run_succ ((opcodeFetchHalts (s.slid n) hr hs).1 hviolating), ← hpc]
  rfl

/-- Settles O57: in KERNEL mode the slide may read up to `TOTAL_SIZE`, and the fetch there is out of range. -/
theorem kernelSlideOverZeroCells : Obligations.KernelSlideOverZeroCells := by
  intro n s hr hs hc hmalformed hm hnonneg hdistance hzero
  have hkernel : s.mode ≠ .user := by rw [hm]; nofun
  have hslide : SlidesTo s.cfg.totalSize n s :=
    ⟨hr, hs, hmalformed, fun _ hlow hlt => ⟨fun hu => absurd hu hkernel, hlow, hlt⟩, hnonneg, hdistance, hzero⟩
  have hpc : (s.slid n).pc = s.cfg.totalSize := hslide.slid_pc
  have hout : OutOfRange (s.slid n) (s.slid n).pc := ⟨fun hv => hkernel hv.1, .inr (by rw [hpc]; rfl)⟩
  rw [hslide.run_succ ((opcodeFetchHalts (s.slid n) hr hs).2 hout), ← hpc]
  rfl

end Sys2Proof.Machine

/-! Launch and reset (spec/70_reset_and_hazards.md R128, R129): the one state a launch can give, the reset values of its
fields, the contents of its Address Space, and the invariant of the reachable states there. -/

namespace Sys2Proof.Machine

variable {c : Config} {image : Image} {m : Memory} {s : State} {e : Word × Word}

/-! ### The state a launch gives -/

/-- The state before the first step (R128): the registers at their reset values, the image written, the service
serving. -/
def State.launched (c : Config) (image : Image) : State := (loadImage image (State.powerOn c)).setService .serving

/-- A launch is not refused for a valid configuration and an image inside the Address Space. -/
theorem launch_of_firstOutside_eq_none (hc : c.Valid) (hinside : image.firstOutside c = none) :
    launch c image = .next (State.launched c image) := by
  rw [launch, if_pos hc, hinside]
  rfl

/-- A launch that is not refused has a valid configuration and an image inside the Address Space, and gives one state. -/
theorem launch_eq_next_iff : launch c image = .next s ↔
    c.Valid ∧ (∀ e ∈ image, 0 ≤ e.1.toInt ∧ e.1.toInt < c.totalSize.toInt) ∧ s = State.launched c image := by
  rw [← firstOutside_eq_none]
  by_cases hc : c.Valid
  · cases hout : image.firstOutside c with
    | some e => simp [launch_of_firstOutside_eq_some hc hout]
    | none =>
      rw [launch_of_firstOutside_eq_none hc hout, Host.Outcome.next.injEq]
      exact ⟨fun hs => ⟨hc, rfl, hs.symm⟩, fun ⟨_, _, hs⟩ => hs.symm⟩
  · simp [launch_of_not_valid hc, hc]

/-! ### The contents of the Address Space -/

/-- With distinct addresses, each entry's cell holds the entry's word: no later entry writes it again. -/
theorem foldl_loadEntry_entry (hwf : m.wf = true) (hnodup : (image.map Prod.fst).Nodup) (he : e ∈ image) :
    (image.foldl loadEntry m).read e.1.toNat = e.2 := by
  induction image generalizing m with
  | nil => cases he
  | cons d rest ih =>
    obtain ⟨hfresh, hnodup⟩ := List.nodup_cons.1 hnodup
    rcases List.mem_cons.1 he with rfl | he
    · have hother : ∀ d ∈ rest, d.1.toNat ≠ e.1.toNat := fun d hd heq =>
        hfresh (List.mem_map.2 ⟨d, hd, BitVec.eq_of_toNat_eq heq⟩)
      rw [List.foldl_cons, foldl_loadEntry_other (m := loadEntry m e) (Memory.write_keeps_wf hwf) _ hother]
      exact Memory.read_write_same hwf _ _
    · exact ih (Memory.write_keeps_wf hwf) hnodup he

/-- Settles O45: the launched state's registers are those of power-on; its Address Space is the image written over
cells that are all 0. -/
theorem launchGivesResetValues : Obligations.LaunchGivesResetValues := by
  intro c image hc hinside hnodup
  refine ⟨State.launched c image, launch_eq_next_iff.2 ⟨hc, hinside, rfl⟩,
    rfl, rfl, rfl, rfl, rfl, rfl, rfl, rfl, rfl, rfl, rfl, rfl, fun e he => ?_, fun a hother => ?_⟩
  · exact foldl_loadEntry_entry rfl hnodup he
  · exact foldl_loadEntry_other rfl a hother

/-! ### The invariant -/

/-- A cell the launch lists is named by an image entry, so it lies inside the Address Space. -/
theorem State.launched_memoryInside
    (hinside : ∀ e ∈ image, 0 ≤ e.1.toInt ∧ e.1.toInt < c.totalSize.toInt) :
    MemoryInside (State.launched c image) := by
  intro d hd
  rcases foldl_loadEntry_mem hd with hnil | ⟨e, he, haddr⟩
  · cases hnil
  · obtain ⟨hnonneg, hlt⟩ := hinside e he
    have hnat := BitVec.toInt_eq_toNat_cond e.1
    have hcfg : (State.launched c image).cfg = c := rfl
    rw [haddr, hcfg]
    omega

/-- Settles O47: nothing has been emitted or sent at launch, the service serves, and writing the image keeps the memory
canonical and inside. -/
theorem launchIsConsistent : Obligations.LaunchIsConsistent := by
  intro c image s hlaunch
  obtain ⟨hc, hinside, rfl⟩ := launch_eq_next_iff.1 hlaunch
  exact {
    config := hc
    memory := foldl_loadEntry_wf rfl
    inside := State.launched_memoryInside hinside
    statuses := rfl
    events := nofun
    shutdown := iff_of_false nofun nofun
    terminated := iff_of_false nofun nofun }

/-! ### Reset -/

theorem Config.standard_valid : Config.standard.Valid := by decide

/-- The default configuration launches with no image, into the state after reset. -/
theorem launch_standard_nil : launch Config.standard [] = .next State.reset :=
  launch_eq_next_iff.2 ⟨Config.standard_valid, nofun, rfl⟩

/-- Settles O46: the launch, and the reset value of each field. -/
theorem resetIsTheDefaultLaunch : Obligations.ResetIsTheDefaultLaunch :=
  ⟨launch_standard_nil, rfl, rfl, rfl, rfl, rfl, rfl, rfl, rfl, rfl, rfl, rfl, fun _ => rfl⟩

/-- Settles O48: reset is a launch. -/
theorem resetIsConsistent : Obligations.ResetIsConsistent := launchIsConsistent _ _ _ launch_standard_nil

end Sys2Proof.Machine

/-! How a run ends (spec/60_exceptions.md R110, R112, R119 to R122): what a halting step did before its halt, the exit
statuses, and that `TIMER_THRESHOLD` has no effect. -/

namespace Sys2Proof.Machine

variable {p : Prop} {s t u : State} {a : Word} {i : Instr} {n : Option Nat} {α β : Type}

/-! ### Reads before a halt -/

/-- The later state has the configuration, the mode, the run status and the memory of the earlier one, and what was sent
between them is reads that violate no privilege. -/
structure OnlyReads (s t : State) : Prop where
  config : t.cfg = s.cfg
  mode : t.mode = s.mode
  run : t.run = s.run
  memory : t.mem = s.mem
  sent : ∃ qs, t.sent = s.sent ++ qs ∧ ∀ q ∈ qs, ∃ a, q = .read a ∧ ¬ Violating s a

namespace OnlyReads

theorem of_registers
    (h : t = { s with pc := t.pc, sp := t.sp, ir := t.ir, ac := t.ac, x := t.x, y := t.y }) : OnlyReads s t := by
  rw [h]
  exact ⟨rfl, rfl, rfl, rfl, [], (List.append_nil _).symm, nofun⟩

theorem record_read (ha : Accessible s a) : OnlyReads s (s.record (.read a)) :=
  ⟨rfl, rfl, rfl, rfl, [.read a], rfl, List.forall_mem_singleton.2 ⟨a, rfl, ha.not_violating⟩⟩

theorem violating_iff (h : OnlyReads s t) : Violating t a ↔ Violating s a := by
  rw [Violating, Violating, h.mode, h.config]

theorem trans (h₁ : OnlyReads s t) (h₂ : OnlyReads t u) : OnlyReads s u := by
  obtain ⟨qs₁, hsent₁, hqs₁⟩ := h₁.sent
  obtain ⟨qs₂, hsent₂, hqs₂⟩ := h₂.sent
  simp only [h₁.violating_iff] at hqs₂
  exact {
    config := h₂.config.trans h₁.config
    mode := h₂.mode.trans h₁.mode
    run := h₂.run.trans h₁.run
    memory := h₂.memory.trans h₁.memory
    sent := ⟨qs₁ ++ qs₂, by rw [hsent₂, hsent₁, List.append_assoc], List.forall_mem_append.2 ⟨hqs₁, hqs₂⟩⟩ }

end OnlyReads

/-- The two fatal halts (R121, R122). Before a privilege violation there were only reads; a protocol error may come
after a write too, as in Int's second save. -/
inductive FatalFrom (s : State) : State → Prop
  | violation {u : State} {a : Word} (hu : OnlyReads s u) (hv : Violating u a) : FatalFrom s (afterViolation a u)
  | outOfRange (q : Request) (a : Word) (u : State) : FatalFrom s (afterOutOfRange q a u)

theorem FatalFrom.after (hs : OnlyReads s t) (ht : FatalFrom t u) : FatalFrom s u := by
  cases ht with
  | violation hu hv => exact .violation (hs.trans hu) hv
  | outOfRange q a u => exact .outOfRange q a u

theorem FatalFrom.run_ne_clean (h : FatalFrom s t) : t.run ≠ .halted .clean := by
  cases h <;> nofun

/-- Statements that only read, up to a fatal halt. -/
def Eng.Reads (s : State) (e : Eng α) : Prop := e.Leads (fun _ t => OnlyReads s t) (FatalFrom s)

/-- Statements that leave the run status unless there is a fatal halt. -/
def Eng.GoesOn (s : State) (e : Eng α) : Prop := e.Leads (fun _ t => t.run = s.run) (FatalFrom s)

theorem Eng.Leads.mono {e : Eng α} {P P' : α → State → Prop} {Q Q' : State → Prop} (he : e.Leads P Q)
    (hP : ∀ v t, P v t → P' v t) (hQ : ∀ t, Q t → Q' t) : e.Leads P' Q' := by
  cases e with
  | ok v t => exact hP v t he
  | halt t => exact hQ t he

namespace Eng

variable {e : Eng α} {f : α → State → Eng β}

theorem Reads.bind (he : e.Reads s) (hf : ∀ v t, (f v t).Reads t) : (e.bind f).Reads s :=
  Leads.bind he fun v t ht => (hf v t).mono (fun _ _ => ht.trans) fun _ => .after ht

theorem Reads.goesOn (he : e.Reads s) : e.GoesOn s := he.mono (fun _ _ ht => ht.run) fun _ ht => ht

theorem GoesOn.after (hs : OnlyReads s t) (he : e.GoesOn t) : e.GoesOn s :=
  he.mono (fun _ _ hu => hu.trans hs.run) fun _ => .after hs

/-- Statements that only read, and then others. -/
theorem Reads.bind_goesOn (he : e.Reads s) (hf : ∀ v t, (f v t).GoesOn t) : (e.bind f).GoesOn s :=
  Leads.bind he fun v t ht => (hf v t).after ht

/-- Statements that go on, and then an update that leaves the run status. -/
theorem GoesOn.then_update {w : β} (he : e.GoesOn s) (g : α → State → State)
    (hg : ∀ v t, (g v t).run = t.run := by intros; rfl) : (e.bind fun v t => .ok w (g v t)).GoesOn s :=
  Leads.bind he fun v t ht => (hg v t).trans ht

end Eng

/-! ### The shared operations -/

theorem memRead_reads (a : Word) (s : State) : (memRead a s).Reads s := by
  rcases memRead_cases a s with ⟨ha, e⟩ | ⟨hv, e⟩ | ⟨-, e⟩ <;> rw [e]
  · exact .record_read ha
  · exact .violation (.of_registers rfl) hv
  · exact .outOfRange _ a s

theorem loadFrom_reads (a : Word) (s : State) : (loadFrom a s).Reads s :=
  (memRead_reads a s).bind fun _ _ => .of_registers rfl

theorem popWord_reads (s : State) : (popWord s).Reads s :=
  (memRead_reads s.sp s).bind fun _ _ => .of_registers rfl

theorem fetchOperand_reads (s : State) : (fetchOperand s).Reads s :=
  (memRead_reads s.pc s).bind fun _ _ => .of_registers rfl

theorem memWrite_goesOn (a v : Word) (s : State) : (memWrite a v s).GoesOn s := by
  rcases memWrite_cases a v s with ⟨-, e⟩ | ⟨hv, e⟩ | ⟨-, e⟩ <;> rw [e]
  · rfl
  · exact .violation (.of_registers rfl) hv
  · exact .outOfRange _ a s

theorem pushWord_goesOn (v : Word) (s : State) : (pushWord v s).GoesOn s :=
  (memWrite_goesOn _ v _).after (t := s.setSp (s.sp - 1#32)) (.of_registers rfl)

/-- In KERNEL mode a push violates no privilege (R45), so it halts out of range if at all. -/
theorem pushWord_kernel (v : Word) (hm : t.mode = .kernel) :
    (pushWord v t).Leads (fun _ u => u.mode = .kernel ∧ u.run = t.run) (FatalFrom s) := by
  rcases pushWord_cases v t with ⟨-, e⟩ | ⟨hv, -⟩ | ⟨-, e⟩
  · rw [e]
    exact ⟨hm, rfl⟩
  · exact absurd (hv.1.symm.trans hm) nofun
  · rw [e]
    exact .outOfRange _ _ _

/-- Trap entry pushes in KERNEL mode (R104). -/
theorem enterHandler_goesOn (s : State) : (enterHandler s).GoesOn s :=
  (pushWord_kernel s.sp (t := (s.setMode .kernel).setSp s.cfg.sysStackTop) rfl).bind fun _ t ⟨hm, ht⟩ =>
  (pushWord_kernel t.pc hm).bind fun _ _ ⟨_, hu⟩ => hu.trans ht

/-- Trap return reads both cells before it leaves KERNEL mode (R105). -/
theorem leaveHandler_goesOn (s : State) : (leaveHandler s).GoesOn s :=
  (popWord_reads s).bind_goesOn fun w t =>
  ((popWord_reads (t.setPc w)).goesOn.then_update fun w u => (u.setSp w).setMode .user).after (.of_registers rfl)

/-! ### The ends of a meaning, of a fetch and of a step -/

/-- The engine's run status is as before, or there was a fatal halt. -/
def EndsWithoutClean (s t : State) : Prop := t.run = s.run ∨ FatalFrom s t

theorem EndsWithoutClean.after (hs : OnlyReads s t) (ht : EndsWithoutClean t u) : EndsWithoutClean s u :=
  ht.imp (fun hr => hr.trans hs.run) (.after hs)

theorem Eng.GoesOn.finish {e : Eng Unit} (he : e.GoesOn s) : ∃ t, e.finish = .next t ∧ EndsWithoutClean s t :=
  Eng.Leads.finish (he.mono (fun _ _ => .inl) fun _ => .inr) fun _ _ h => h

/-- Every meaning but End's goes on or halts fatally. -/
theorem exec_endsWithoutClean (s : State) (hi : i ≠ .endRun) : ∃ t, exec i s = .next t ∧ EndsWithoutClean s t := by
  cases i
  case endRun => exact absurd rfl hi
  case loadAddr a => exact (loadFrom_reads a s).goesOn.finish
  case loadIndAddr a => exact ((memRead_reads a s).bind fun w t => loadFrom_reads w t).goesOn.finish
  case loadIdxXAddr a => exact (loadFrom_reads _ s).goesOn.finish
  case loadIdxYAddr a => exact (loadFrom_reads _ s).goesOn.finish
  case loadSpX => exact (loadFrom_reads _ s).goesOn.finish
  case storeAddr a => exact (memWrite_goesOn a s.ac s).finish
  case putPort port =>
    refine ⟨_, rfl, .inl ?_⟩
    unfold emitPort
    split_ifs <;> rfl
  case jumpIfEqual a => exact ⟨_, rfl, .inl (by split <;> rfl)⟩
  case jumpIfNotEqual a => exact ⟨_, rfl, .inl (by split <;> rfl)⟩
  case callAddr a =>
    rw [exec_callAddr]
    exact ((pushWord_goesOn s.pc s).then_update fun _ t => t.setPc a).finish
  case ret =>
    rw [exec_ret]
    exact ((popWord_reads s).goesOn.then_update fun w t => t.setPc w).finish
  case push => exact (pushWord_goesOn s.ac s).finish
  case pop =>
    rw [exec_pop]
    exact ((popWord_reads s).goesOn.then_update fun w t => t.setAc w).finish
  case int =>
    cases hm : s.mode with
    | user => exact exec_int_user hm ▸ (enterHandler_goesOn s).finish
    | kernel => exact ⟨s, exec_int_kernel hm, .inl rfl⟩
  case iRet =>
    cases hm : s.mode with
    | user => exact ⟨s, exec_iRet_user hm, .inl rfl⟩
    | kernel => exact exec_iRet_kernel hm ▸ (leaveHandler_goesOn s).finish
  all_goals exact ⟨_, rfl, .inl rfl⟩

theorem OnlyReads.opcodeFetched (ha : Accessible s s.pc) : OnlyReads s s.opcodeFetched :=
  (record_read ha).trans (.of_registers rfl)

/-- The operand fetch of a class. -/
theorem fetchRest_ends (c : Opcode) (s : State) :
    (∃ i t, fetchRest c s = .run i t ∧ OnlyReads s t) ∨ ∃ t, fetchRest c s = .over t ∧ FatalFrom s t := by
  cases ho : c.hasOperand with
  | false => exact .inl ⟨_, s, fetchRest_of_one_cell ho, .of_registers rfl⟩
  | true =>
    have hreads := fetchOperand_reads s
    cases hf : fetchOperand s with
    | ok w t =>
      rw [hf] at hreads
      exact .inl ⟨c.withOperand w, t, by simp [fetchRest, ho, hf], hreads⟩
    | halt t =>
      rw [hf] at hreads
      exact .inr ⟨t, fetchRest_of_operand_halt ho hf, hreads⟩

/-- A fetch that gives an instruction has only read; one that is over went on (R107) or halted fatally. -/
theorem fetchInstr_ends (s : State) :
    (∃ i t, fetchInstr s = .run i t ∧ OnlyReads s t) ∨ ∃ t, fetchInstr s = .over t ∧ EndsWithoutClean s t := by
  rcases fetchOpcode_cases s with ⟨ha, -⟩ | ⟨hv, hhalt⟩ | ⟨-, hhalt⟩
  · have hfetched := OnlyReads.opcodeFetched ha
    cases hc : s.cfg.opcodeMap.classOf (s.mem.read s.pc.toNat) with
    | none => exact .inr ⟨_, fetchInstr_of_no_class ha hc, .inl rfl⟩
    | some c =>
      rw [fetchInstr_of_class ha hc]
      rcases fetchRest_ends c s.opcodeFetched with ⟨i, t, hf, ht⟩ | ⟨t, hf, ht⟩
      · exact .inl ⟨i, t, hf, hfetched.trans ht⟩
      · exact .inr ⟨t, hf, .inr (ht.after hfetched)⟩
  · exact .inr ⟨_, fetchInstr_of_opcode_halt hhalt, .inr (.violation (.of_registers rfl) hv)⟩
  · exact .inr ⟨_, fetchInstr_of_opcode_halt hhalt, .inr (.outOfRange _ _ s)⟩

/-- The fetch gives End only from End's opcode, and then it is the opcode fetch: End has no operand cell (R61). -/
theorem fetchInstr_run_endRun (hf : fetchInstr s = .run .endRun t) :
    s.cfg.opcodeMap.classOf (s.mem.read s.pc.toNat) = some .endRun ∧ t = s.opcodeFetched := by
  rcases fetchInstr_cases s with ⟨u, hu, -⟩ | ⟨i, u, hu, -, -, -, hclass⟩ <;> cases hu.symm.trans hf
  refine ⟨hclass, ?_⟩
  rcases fetchOpcode_cases s with ⟨ha, -⟩ | ⟨-, hhalt⟩ | ⟨-, hhalt⟩
  · cases ((fetchInstr_of_class ha hclass).trans (fetchRest_of_one_cell rfl)).symm.trans hf
    rfl
  · cases (fetchInstr_of_opcode_halt hhalt).symm.trans hf
  · cases (fetchInstr_of_opcode_halt hhalt).symm.trans hf

/-- How a step can end: the engine runs on, or there was a fatal halt, or the step was End's. -/
theorem step_ends (hstep : step s = .next t) : t.run = .running ∨ FatalFrom s t ∨
    s.cfg.opcodeMap.classOf (s.mem.read s.pc.toNat) = some .endRun ∧ t = haltClean s.opcodeFetched := by
  obtain ⟨hr, -, -⟩ := step_runs hstep
  rw [← hr, ← or_assoc]
  rcases fetchInstr_ends s with ⟨i, u, hf, hu⟩ | ⟨u, hf, hu⟩ <;>
    rcases step_eq_next hstep with hf' | ⟨j, w, hf', hexec⟩ <;> cases hf.symm.trans hf'
  · by_cases hi : i = .endRun
    · subst hi
      obtain ⟨hclass, rfl⟩ := fetchInstr_run_endRun hf
      cases hexec
      exact .inr ⟨hclass, rfl⟩
    · obtain ⟨w, hw, hends⟩ := exec_endsWithoutClean u hi
      cases hw.symm.trans hexec
      exact .inl (hends.after hu)
  · exact .inl hu

/-! ### The exit statuses and the halts -/

/-- Settles O40: the three rows of R110's status column. -/
theorem exitStatusesAreDistinct : Obligations.ExitStatusesAreDistinct := ⟨rfl, fun _ => rfl, fun _ => rfl⟩

/-- Settles O41: of the ends of a step only End's is clean, and End's fetch is one READ. -/
theorem cleanHaltOnlyByEnd : Obligations.CleanHaltOnlyByEnd := by
  refine ⟨fun s t hstep hclean => ?_, exitStatusesAreDistinct.1⟩
  rcases step_ends hstep with hrun | hfatal | ⟨hclass, rfl⟩
  · exact absurd (hrun.symm.trans hclean) nofun
  · exact absurd hclean hfatal.run_ne_clean
  · exact ⟨hclass, rfl, rfl, List.append_assoc _ _ _⟩

/-- Settles O42: a step that violates privilege only read before, at addresses that violate none; and the guarded access
checks every address. -/
theorem privilegeHaltOnlyByViolation : Obligations.PrivilegeHaltOnlyByViolation := by
  refine ⟨fun s t a hstep hviolation => ?_, fun a v s hv => ⟨memRead_violating hv, memWrite_violating hv⟩,
    exitStatusesAreDistinct.2.1⟩
  rcases step_ends hstep with hrun | hfatal | ⟨-, rfl⟩
  · exact absurd (hrun.symm.trans hviolation) nofun
  · cases hfatal with
    | outOfRange q b u => cases hviolation
    | violation hu hv =>
      cases hviolation
      have hvs : Violating s a := hu.violating_iff.1 hv
      obtain ⟨qs, hsent, hqs⟩ := hu.sent
      refine ⟨hvs, rfl, hu.memory, qs, congrArg (· ++ [Request.terminate]) hsent, fun q hq => ?_⟩
      obtain ⟨b, rfl, hb⟩ := hqs q hq
      exact ⟨fun heq => hb (by cases heq; exact hvs), nofun⟩
  · cases hviolation

theorem Move.run_eq (hm : Move p s t) : t.run = s.run := by
  cases hm with
  | registers pc sp ir ac x y d hd ht => rw [ht]
  | _ => rfl

/-- No move sends TERMINATE. -/
theorem Move.count_terminate_eq (hm : Move p s t) : t.sent.count .terminate = s.sent.count .terminate := by
  cases hm with
  | registers pc sp ir ac x y d hd ht => rw [ht]
  | read a ha => simp
  | write a v ha => simp
  | _ => rfl

/-- Until its ending a step runs on, and the requests it sent are no TERMINATE and give its memory. -/
theorem Moves.requests (hm : Moves p s t) : t.run = s.run ∧ t.cfg = s.cfg ∧
    ∃ qs, t.sent = s.sent ++ qs ∧ .terminate ∉ qs ∧ t.mem = qs.foldl (applyRequest s.cfg) s.mem := by
  obtain ⟨hcfg, qs, hsent, hmem⟩ := hm.replaysWrites
  have hrun : t.run = s.run :=
    hm.keeps (I := fun u => u.run = s.run) (fun _ _ hmove hu => hmove.run_eq.trans hu) rfl
  have hcount : t.sent.count .terminate = s.sent.count .terminate :=
    hm.keeps (I := fun u => u.sent.count .terminate = s.sent.count .terminate)
      (fun _ _ hmove hu => hmove.count_terminate_eq.trans hu) rfl
  rw [hsent, List.count_append, Nat.add_eq_left, List.count_eq_zero] at hcount
  exact ⟨hrun, hcfg, qs, hsent, hcount, hmem⟩

/-- Settles O43: of the endings of a step only the out-of-range one is a protocol error; it adds its request to those of
the moves before it. -/
theorem protocolHaltOnlyByBadAddress : Obligations.ProtocolHaltOnlyByBadAddress := by
  refine ⟨fun s t r hstep herror => ?_, fun a v s ho => ⟨memRead_outOfRange ho, memWrite_outOfRange ho⟩,
    exitStatusesAreDistinct.2.2⟩
  obtain ⟨hr, -, u, hm, he⟩ := step_runs hstep
  obtain ⟨hrun, hcfg, qs, hsent, hterminate, hmem⟩ := hm.requests
  cases he with
  | goesOn => exact absurd (hr.symm.trans (hrun.symm.trans herror)) nofun
  | clean => cases herror
  | violation a hv => cases herror
  | outOfRange a q ho hq =>
    cases herror
    obtain ⟨-, hout⟩ := ho
    rw [hcfg] at hout
    exact ⟨a, q, qs, rfl, hout, hq, rfl, congrArg (· ++ [q]) hsent, hterminate, hmem⟩

/-! ### `TIMER_THRESHOLD` has no effect

Every operation runs from `withTimer n s` as from `s`, to the same states but for the threshold. -/

/-- The same end of some statements, with another threshold. -/
def Eng.withTimer (n : Option Nat) : Eng α → Eng α
  | .ok v s => .ok v (Machine.withTimer n s)
  | .halt s => .halt (Machine.withTimer n s)

/-- The same result, with another threshold. -/
def Result.withTimer (n : Option Nat) : Result → Result
  | .next s => .next (Machine.withTimer n s)
  | .fault f => .fault f
  | .refused r => .refused r

/-- The same fetch, with another threshold. -/
def Fetched.withTimer (n : Option Nat) : Fetched → Fetched
  | .run i s => .run i (Machine.withTimer n s)
  | .over s => .over (Machine.withTimer n s)

theorem Eng.withTimer_finish (e : Eng Unit) : (e.withTimer n).finish = Result.withTimer n e.finish := by
  cases e <;> rfl

/-- Statements in sequence, where those that follow ignore the threshold. -/
theorem Eng.withTimer_bind {e e' : Eng α} {f : α → State → Eng β} (he : e' = e.withTimer n)
    (hf : ∀ v t, f v (Machine.withTimer n t) = (f v t).withTimer n := by intros; rfl) :
    e'.bind f = (e.bind f).withTimer n := by
  subst he
  cases e with
  | ok v t => exact hf v t
  | halt t => rfl

theorem memRead_withTimer (n : Option Nat) (a : Word) (s : State) :
    memRead a (withTimer n s) = (memRead a s).withTimer n := by
  rcases memRead_cases a s with ⟨ha, e⟩ | ⟨hv, e⟩ | ⟨ho, e⟩ <;> rw [e]
  · exact memRead_accessible (s := withTimer n s) ha
  · exact memRead_violating (s := withTimer n s) hv
  · exact memRead_outOfRange (s := withTimer n s) ho

theorem memWrite_withTimer (n : Option Nat) (a v : Word) (s : State) :
    memWrite a v (withTimer n s) = (memWrite a v s).withTimer n := by
  rcases memWrite_cases a v s with ⟨ha, e⟩ | ⟨hv, e⟩ | ⟨ho, e⟩ <;> rw [e]
  · exact memWrite_accessible (s := withTimer n s) ha
  · exact memWrite_violating (s := withTimer n s) hv
  · exact memWrite_outOfRange (s := withTimer n s) ho

theorem loadFrom_withTimer (n : Option Nat) (a : Word) (s : State) :
    loadFrom a (withTimer n s) = (loadFrom a s).withTimer n :=
  Eng.withTimer_bind (memRead_withTimer n a s)

theorem pushWord_withTimer (n : Option Nat) (v : Word) (s : State) :
    pushWord v (withTimer n s) = (pushWord v s).withTimer n :=
  memWrite_withTimer n _ v (s.setSp (s.sp - 1#32))

theorem popWord_withTimer (n : Option Nat) (s : State) : popWord (withTimer n s) = (popWord s).withTimer n :=
  Eng.withTimer_bind (memRead_withTimer n s.sp s)

theorem fetchOpcode_withTimer (n : Option Nat) (s : State) :
    fetchOpcode (withTimer n s) = (fetchOpcode s).withTimer n :=
  Eng.withTimer_bind (memRead_withTimer n s.pc s)

theorem fetchOperand_withTimer (n : Option Nat) (s : State) :
    fetchOperand (withTimer n s) = (fetchOperand s).withTimer n :=
  Eng.withTimer_bind (memRead_withTimer n s.pc s)

theorem enterHandler_withTimer (n : Option Nat) (s : State) :
    enterHandler (withTimer n s) = (enterHandler s).withTimer n :=
  Eng.withTimer_bind (pushWord_withTimer n s.sp ((s.setMode .kernel).setSp s.cfg.sysStackTop)) fun _ t =>
  Eng.withTimer_bind (pushWord_withTimer n t.pc t)

theorem leaveHandler_withTimer (n : Option Nat) (s : State) :
    leaveHandler (withTimer n s) = (leaveHandler s).withTimer n :=
  Eng.withTimer_bind (popWord_withTimer n s) fun w t =>
  Eng.withTimer_bind (popWord_withTimer n (t.setPc w))

theorem emitPort_withTimer (n : Option Nat) (port : Word) (s : State) :
    emitPort port (withTimer n s) = withTimer n (emitPort port s) := by
  unfold emitPort
  split_ifs <;> rfl

/-- An instruction that is some statements which ignore the threshold. -/
theorem Eng.finish_withTimer {e e' : Eng Unit} (he : e' = e.withTimer n) :
    e'.finish = Result.withTimer n e.finish := by
  rw [he, Eng.withTimer_finish]

theorem exec_withTimer (n : Option Nat) (i : Instr) (s : State) :
    exec i (withTimer n s) = Result.withTimer n (exec i s) := by
  cases i
  case loadAddr a => exact Eng.finish_withTimer (loadFrom_withTimer n a s)
  case loadIndAddr a =>
    exact Eng.finish_withTimer (Eng.withTimer_bind (memRead_withTimer n a s) fun w t => loadFrom_withTimer n w t)
  case loadIdxXAddr a => exact Eng.finish_withTimer (loadFrom_withTimer n (indexedX s a) s)
  case loadIdxYAddr a => exact Eng.finish_withTimer (loadFrom_withTimer n (indexedY s a) s)
  case loadSpX => exact Eng.finish_withTimer (loadFrom_withTimer n (stackIndexed s) s)
  case storeAddr a => exact Eng.finish_withTimer (memWrite_withTimer n a s.ac s)
  case putPort port => exact congrArg Host.Outcome.next (emitPort_withTimer n port s)
  case jumpIfEqual a =>
    rw [exec_jumpIfEqual, exec_jumpIfEqual]
    exact congrArg Host.Outcome.next (apply_ite (withTimer n) (s.ac = 0#32) (s.setPc a) s).symm
  case jumpIfNotEqual a =>
    rw [exec_jumpIfNotEqual, exec_jumpIfNotEqual]
    exact congrArg Host.Outcome.next (apply_ite (withTimer n) (s.ac = 0#32) s (s.setPc a)).symm
  case callAddr a => exact Eng.finish_withTimer (Eng.withTimer_bind (pushWord_withTimer n s.pc s))
  case ret => exact Eng.finish_withTimer (Eng.withTimer_bind (popWord_withTimer n s))
  case push => exact Eng.finish_withTimer (pushWord_withTimer n s.ac s)
  case pop => exact Eng.finish_withTimer (Eng.withTimer_bind (popWord_withTimer n s))
  case int =>
    cases hm : s.mode with
    | user =>
      rw [exec_int_user hm, exec_int_user (s := withTimer n s) hm]
      exact Eng.finish_withTimer (enterHandler_withTimer n s)
    | kernel =>
      rw [exec_int_kernel hm]
      exact exec_int_kernel (s := withTimer n s) hm
  case iRet =>
    cases hm : s.mode with
    | user =>
      rw [exec_iRet_user hm]
      exact exec_iRet_user (s := withTimer n s) hm
    | kernel =>
      rw [exec_iRet_kernel hm, exec_iRet_kernel (s := withTimer n s) hm]
      exact Eng.finish_withTimer (leaveHandler_withTimer n s)
  all_goals rfl

theorem fetchRest_withTimer (n : Option Nat) (c : Opcode) (s : State) :
    fetchRest c (withTimer n s) = (fetchRest c s).withTimer n := by
  unfold fetchRest
  rw [fetchOperand_withTimer]
  cases fetchOperand s <;> cases c.hasOperand <;> rfl

theorem fetchInstr_withTimer (n : Option Nat) (s : State) :
    fetchInstr (withTimer n s) = (fetchInstr s).withTimer n := by
  unfold fetchInstr
  rw [fetchOpcode_withTimer]
  cases fetchOpcode s with
  | halt t => rfl
  | ok op t =>
    have hmap : (withTimer n t).cfg.opcodeMap = t.cfg.opcodeMap := rfl
    simp only [Eng.withTimer, hmap]
    cases t.cfg.opcodeMap.classOf op with
    | none => rfl
    | some c => exact fetchRest_withTimer n c t

/-- A step ignores the threshold: the tests of the two statuses, the fetch and the meaning do. -/
theorem step_withTimer (n : Option Nat) (s : State) : step (withTimer n s) = Result.withTimer n (step s) := by
  cases hr : s.run with
  | halted h =>
    rw [step_of_halted hr]
    exact step_of_halted (s := withTimer n s) hr
  | running =>
    by_cases hs : s.service = .serving
    · have hfetch := fetchInstr_withTimer n s
      rcases hf : fetchInstr s with ⟨i, t⟩ | t <;> rw [hf] at hfetch
      · rw [step_of_fetch_run hr hs hf, ← exec_withTimer]
        exact step_of_fetch_run (s := withTimer n s) hr hs hfetch
      · rw [step_of_fetch_over hr hs hf]
        exact step_of_fetch_over (s := withTimer n s) hr hs hfetch
    · rw [step_of_not_serving hr hs]
      exact step_of_not_serving (s := withTimer n s) hr hs

/-- Settles O55: a step ignores the threshold, so each of its results is the same but for it. -/
theorem timerThresholdHasNoEffect : Obligations.TimerThresholdHasNoEffect := fun n s =>
  ⟨fun _ ht => (step_withTimer n s).trans (congrArg (Result.withTimer n) ht),
    fun _ hf => (step_withTimer n s).trans (congrArg (Result.withTimer n) hf)⟩

end Sys2Proof.Machine
